-- ==== Sys2Proof/Word.lean ====
section
/-! DEFINITION. The word types of chip8_core (00_scope.md R8, R9): every value is unsigned. -/

namespace Sys2Proof

/-- A byte: the width of V0..VF, of the timers and of a memory cell (R8). -/
abbrev Byte := BitVec 8

/-- A 16-bit word: an instruction word, I, pc or a return address (R8, R300). -/
abbrev Word := BitVec 16

/-- A general register index, 0..15 (R100, R302). -/
abbrev Reg := Fin 16

/-- VF, the flag register: `V[15]` (R101). -/
abbrev VF : Reg := 15

end Sys2Proof
end

