-- ==== Sys2Proof/Syntax.lean ====
section
/-! DEFINITION. The instructions, one constructor for each of the 34 rows of 30_encoding.md R305, in its order. -/

namespace Sys2Proof

/-- An instruction with its operands (R301 to R303). `x` and `y` are register indices, `kk` an 8-bit and
`nnn` a 12-bit immediate, `n` a count of sprite rows. -/
inductive Instr where
  /-- 00E0 CLS (R800) -/
  | cls
  /-- 00EE RET (R510) -/
  | ret
  /-- 1nnn JP nnn (R515) -/
  | jp (nnn : BitVec 12)
  /-- 2nnn CALL nnn (R520) -/
  | call (nnn : BitVec 12)
  /-- 3xkk SE Vx, kk (R525) -/
  | seImm (x : Reg) (kk : Byte)
  /-- 4xkk SNE Vx, kk (R530) -/
  | sneImm (x : Reg) (kk : Byte)
  /-- 5xy0 SE Vx, Vy (R535) -/
  | seReg (x y : Reg)
  /-- 6xkk LD Vx, kk (R610) -/
  | ldImm (x : Reg) (kk : Byte)
  /-- 7xkk ADD Vx, kk (R615) -/
  | addImm (x : Reg) (kk : Byte)
  /-- 8xy0 LD Vx, Vy (R620) -/
  | ldReg (x y : Reg)
  /-- 8xy1 OR Vx, Vy (R625) -/
  | orReg (x y : Reg)
  /-- 8xy2 AND Vx, Vy (R630) -/
  | andReg (x y : Reg)
  /-- 8xy3 XOR Vx, Vy (R635) -/
  | xorReg (x y : Reg)
  /-- 8xy4 ADD Vx, Vy (R640) -/
  | addReg (x y : Reg)
  /-- 8xy5 SUB Vx, Vy (R645) -/
  | subReg (x y : Reg)
  /-- 8xy6 SHR Vx (R650); `y` is any value and has no effect -/
  | shr (x y : Reg)
  /-- 8xy7 SUBN Vx, Vy (R655) -/
  | subnReg (x y : Reg)
  /-- 8xyE SHL Vx (R660); `y` is any value and has no effect -/
  | shl (x y : Reg)
  /-- 9xy0 SNE Vx, Vy (R538) -/
  | sneReg (x y : Reg)
  /-- Annn LD I, nnn (R700) -/
  | ldI (nnn : BitVec 12)
  /-- Bnnn JP V0, nnn (R540) -/
  | jpV0 (nnn : BitVec 12)
  /-- Cxkk RND Vx, kk (R670) -/
  | rnd (x : Reg) (kk : Byte)
  /-- Dxyn DRW Vx, Vy, n (R810) -/
  | drw (x y : Reg) (n : Nat)
  /-- Ex9E SKP Vx (R900) -/
  | skp (x : Reg)
  /-- ExA1 SKNP Vx (R905) -/
  | sknp (x : Reg)
  /-- Fx07 LD Vx, DT (R920) -/
  | ldVxDT (x : Reg)
  /-- Fx0A LD Vx, K (R930) -/
  | ldVxK (x : Reg)
  /-- Fx15 LD DT, Vx (R940) -/
  | ldDTVx (x : Reg)
  /-- Fx18 LD ST, Vx (R945) -/
  | ldSTVx (x : Reg)
  /-- Fx1E ADD I, Vx (R710) -/
  | addIVx (x : Reg)
  /-- Fx29 LD F, Vx (R720) -/
  | ldFVx (x : Reg)
  /-- Fx33 LD B, Vx (R730) -/
  | ldBVx (x : Reg)
  /-- Fx55 LD [I], Vx (R745) -/
  | storeRegs (x : Reg)
  /-- Fx65 LD Vx, [I] (R750) -/
  | loadRegs (x : Reg)
  deriving DecidableEq, Repr

end Sys2Proof
end

