-- ==== Sys2Proof/Decode.lean ====
section
/-! DEFINITION. Decoding and encoding (30_encoding.md). `decode` is the family form of R306, total on every
word and rejecting by name; `opcodeTable` is the mask and match table of R305; `encode` gives a word back. -/

namespace Sys2Proof

/-! ### Fields (R301, R302) -/

/-- `op = w[15:12]`, the family nibble. -/
def opField (w : Word) : Nat := (w.extractLsb' 12 4).toNat

/-- `x = w[11:8]`. -/
def xField (w : Word) : Reg := (w.extractLsb' 8 4).toFin

/-- `y = w[7:4]`. -/
def yField (w : Word) : Reg := (w.extractLsb' 4 4).toFin

/-- `n = w[3:0]`. -/
def nField (w : Word) : Nat := (w.extractLsb' 0 4).toNat

/-- `kk = w[7:0]`. -/
def kkField (w : Word) : Byte := w.extractLsb' 0 8

/-- `nnn = w[11:0]`. -/
def nnnField (w : Word) : BitVec 12 := w.extractLsb' 0 12

/-! ### The decoder (R306, R310, R311) -/

/-- Why a word or a list of bytes is no instruction: the illegal words of R311, family by family. -/
inductive DecodeReject where
  /-- 0x0nnn other than 00E0 and 00EE. -/
  | family0
  /-- 5xyN with N other than 0. -/
  | family5
  /-- 8xyN with N in 8..D or F. -/
  | family8
  /-- 9xyN with N other than 0. -/
  | family9
  /-- ExNN with NN other than 9E and A1. -/
  | familyE
  /-- FxNN with NN outside the nine rows. -/
  | familyF
  /-- Fewer than the two bytes of a word (only from `decodeBytes`; a fetch always has two). -/
  | tooShort
  deriving DecidableEq, Repr

/-- `decode(w)` in family form (R306). Every rejected word is a DecodeFault (R310). -/
def decode (w : Word) : Except DecodeReject Instr :=
  match opField w with
  | 0x0 => if w = 0x00E0 then .ok .cls else if w = 0x00EE then .ok .ret else .error .family0
  | 0x1 => .ok (.jp (nnnField w))
  | 0x2 => .ok (.call (nnnField w))
  | 0x3 => .ok (.seImm (xField w) (kkField w))
  | 0x4 => .ok (.sneImm (xField w) (kkField w))
  | 0x5 => if nField w = 0 then .ok (.seReg (xField w) (yField w)) else .error .family5
  | 0x6 => .ok (.ldImm (xField w) (kkField w))
  | 0x7 => .ok (.addImm (xField w) (kkField w))
  | 0x8 =>
    match nField w with
    | 0x0 => .ok (.ldReg (xField w) (yField w))
    | 0x1 => .ok (.orReg (xField w) (yField w))
    | 0x2 => .ok (.andReg (xField w) (yField w))
    | 0x3 => .ok (.xorReg (xField w) (yField w))
    | 0x4 => .ok (.addReg (xField w) (yField w))
    | 0x5 => .ok (.subReg (xField w) (yField w))
    | 0x6 => .ok (.shr (xField w) (yField w))
    | 0x7 => .ok (.subnReg (xField w) (yField w))
    | 0xE => .ok (.shl (xField w) (yField w))
    | _ => .error .family8
  | 0x9 => if nField w = 0 then .ok (.sneReg (xField w) (yField w)) else .error .family9
  | 0xA => .ok (.ldI (nnnField w))
  | 0xB => .ok (.jpV0 (nnnField w))
  | 0xC => .ok (.rnd (xField w) (kkField w))
  | 0xD => .ok (.drw (xField w) (yField w) (nField w))
  | 0xE =>
    match (kkField w).toNat with
    | 0x9E => .ok (.skp (xField w))
    | 0xA1 => .ok (.sknp (xField w))
    | _ => .error .familyE
  | _ =>
    -- 0xF, the one value left
    match (kkField w).toNat with
    | 0x07 => .ok (.ldVxDT (xField w))
    | 0x0A => .ok (.ldVxK (xField w))
    | 0x15 => .ok (.ldDTVx (xField w))
    | 0x18 => .ok (.ldSTVx (xField w))
    | 0x1E => .ok (.addIVx (xField w))
    | 0x29 => .ok (.ldFVx (xField w))
    | 0x33 => .ok (.ldBVx (xField w))
    | 0x55 => .ok (.storeRegs (xField w))
    | 0x65 => .ok (.loadRegs (xField w))
    | _ => .error .familyF

/-- The word of two bytes, the byte at the lower address on top (R300, 20_memory.md R210). -/
def wordOfBytes (hi lo : Byte) : Word := hi ++ lo

/-- Decode the first instruction of a byte list and give the bytes after it (R300: one length, two bytes). -/
def decodeBytes : List Byte → Except DecodeReject (Instr × List Byte)
  | hi :: lo :: rest =>
    match decode (wordOfBytes hi lo) with
    | .ok i => .ok (i, rest)
    | .error r => .error r
  | _ => .error .tooShort

/-! ### The opcode table (R305) -/

/-- A row of R305: the word w belongs to it when `w & mask = pattern`, and then stands for `build w`. -/
structure OpcodeRow where
  mask : Word
  pattern : Word
  build : Word → Instr

/-- The row takes the word (R305: `w & mask = match`). -/
def OpcodeRow.takes (r : OpcodeRow) (w : Word) : Bool := w &&& r.mask == r.pattern

/-- Rows 1 to 9 of R305. -/
def opcodeRows1 : List OpcodeRow :=
  [ ⟨0xFFFF, 0x00E0, fun _ => .cls⟩,
    ⟨0xFFFF, 0x00EE, fun _ => .ret⟩,
    ⟨0xF000, 0x1000, fun w => .jp (nnnField w)⟩,
    ⟨0xF000, 0x2000, fun w => .call (nnnField w)⟩,
    ⟨0xF000, 0x3000, fun w => .seImm (xField w) (kkField w)⟩,
    ⟨0xF000, 0x4000, fun w => .sneImm (xField w) (kkField w)⟩,
    ⟨0xF00F, 0x5000, fun w => .seReg (xField w) (yField w)⟩,
    ⟨0xF000, 0x6000, fun w => .ldImm (xField w) (kkField w)⟩,
    ⟨0xF000, 0x7000, fun w => .addImm (xField w) (kkField w)⟩ ]

/-- Rows 10 to 19 of R305. -/
def opcodeRows2 : List OpcodeRow :=
  [ ⟨0xF00F, 0x8000, fun w => .ldReg (xField w) (yField w)⟩,
    ⟨0xF00F, 0x8001, fun w => .orReg (xField w) (yField w)⟩,
    ⟨0xF00F, 0x8002, fun w => .andReg (xField w) (yField w)⟩,
    ⟨0xF00F, 0x8003, fun w => .xorReg (xField w) (yField w)⟩,
    ⟨0xF00F, 0x8004, fun w => .addReg (xField w) (yField w)⟩,
    ⟨0xF00F, 0x8005, fun w => .subReg (xField w) (yField w)⟩,
    ⟨0xF00F, 0x8006, fun w => .shr (xField w) (yField w)⟩,
    ⟨0xF00F, 0x8007, fun w => .subnReg (xField w) (yField w)⟩,
    ⟨0xF00F, 0x800E, fun w => .shl (xField w) (yField w)⟩,
    ⟨0xF00F, 0x9000, fun w => .sneReg (xField w) (yField w)⟩ ]

/-- Rows 20 to 34 of R305. -/
def opcodeRows3 : List OpcodeRow :=
  [ ⟨0xF000, 0xA000, fun w => .ldI (nnnField w)⟩,
    ⟨0xF000, 0xB000, fun w => .jpV0 (nnnField w)⟩,
    ⟨0xF000, 0xC000, fun w => .rnd (xField w) (kkField w)⟩,
    ⟨0xF000, 0xD000, fun w => .drw (xField w) (yField w) (nField w)⟩,
    ⟨0xF0FF, 0xE09E, fun w => .skp (xField w)⟩,
    ⟨0xF0FF, 0xE0A1, fun w => .sknp (xField w)⟩,
    ⟨0xF0FF, 0xF007, fun w => .ldVxDT (xField w)⟩,
    ⟨0xF0FF, 0xF00A, fun w => .ldVxK (xField w)⟩,
    ⟨0xF0FF, 0xF015, fun w => .ldDTVx (xField w)⟩,
    ⟨0xF0FF, 0xF018, fun w => .ldSTVx (xField w)⟩,
    ⟨0xF0FF, 0xF01E, fun w => .addIVx (xField w)⟩,
    ⟨0xF0FF, 0xF029, fun w => .ldFVx (xField w)⟩,
    ⟨0xF0FF, 0xF033, fun w => .ldBVx (xField w)⟩,
    ⟨0xF0FF, 0xF055, fun w => .storeRegs (xField w)⟩,
    ⟨0xF0FF, 0xF065, fun w => .loadRegs (xField w)⟩ ]

/-- The 34 rows of R305, in its order. -/
def opcodeTable : List OpcodeRow := opcodeRows1 ++ opcodeRows2 ++ opcodeRows3

/-- `decode(w)` as R305 defines it: the instruction of the row that takes w. -/
def decodeByTable (w : Word) : Option Instr :=
  (opcodeTable.find? fun r => r.takes w).map fun r => r.build w

/-! ### The encoder (R301, R305) -/

/-- A register index as the 4 bits of an x or y field. -/
def regBits (r : Reg) : BitVec 4 := BitVec.ofNat 4 r.val

/-- The word of a well-formed instruction, each field at its place in R301's layout. -/
def encode : Instr → Word
  | .cls => 0x00E0
  | .ret => 0x00EE
  | .jp nnn => 0x1#4 ++ nnn
  | .call nnn => 0x2#4 ++ nnn
  | .seImm x kk => 0x3#4 ++ regBits x ++ kk
  | .sneImm x kk => 0x4#4 ++ regBits x ++ kk
  | .seReg x y => 0x5#4 ++ regBits x ++ regBits y ++ 0x0#4
  | .ldImm x kk => 0x6#4 ++ regBits x ++ kk
  | .addImm x kk => 0x7#4 ++ regBits x ++ kk
  | .ldReg x y => 0x8#4 ++ regBits x ++ regBits y ++ 0x0#4
  | .orReg x y => 0x8#4 ++ regBits x ++ regBits y ++ 0x1#4
  | .andReg x y => 0x8#4 ++ regBits x ++ regBits y ++ 0x2#4
  | .xorReg x y => 0x8#4 ++ regBits x ++ regBits y ++ 0x3#4
  | .addReg x y => 0x8#4 ++ regBits x ++ regBits y ++ 0x4#4
  | .subReg x y => 0x8#4 ++ regBits x ++ regBits y ++ 0x5#4
  | .shr x y => 0x8#4 ++ regBits x ++ regBits y ++ 0x6#4
  | .subnReg x y => 0x8#4 ++ regBits x ++ regBits y ++ 0x7#4
  | .shl x y => 0x8#4 ++ regBits x ++ regBits y ++ 0xE#4
  | .sneReg x y => 0x9#4 ++ regBits x ++ regBits y ++ 0x0#4
  | .ldI nnn => 0xA#4 ++ nnn
  | .jpV0 nnn => 0xB#4 ++ nnn
  | .rnd x kk => 0xC#4 ++ regBits x ++ kk
  | .drw x y n => 0xD#4 ++ regBits x ++ regBits y ++ BitVec.ofNat 4 n
  | .skp x => 0xE#4 ++ regBits x ++ 0x9E#8
  | .sknp x => 0xE#4 ++ regBits x ++ 0xA1#8
  | .ldVxDT x => 0xF#4 ++ regBits x ++ 0x07#8
  | .ldVxK x => 0xF#4 ++ regBits x ++ 0x0A#8
  | .ldDTVx x => 0xF#4 ++ regBits x ++ 0x15#8
  | .ldSTVx x => 0xF#4 ++ regBits x ++ 0x18#8
  | .addIVx x => 0xF#4 ++ regBits x ++ 0x1E#8
  | .ldFVx x => 0xF#4 ++ regBits x ++ 0x29#8
  | .ldBVx x => 0xF#4 ++ regBits x ++ 0x33#8
  | .storeRegs x => 0xF#4 ++ regBits x ++ 0x55#8
  | .loadRegs x => 0xF#4 ++ regBits x ++ 0x65#8

/-- The high byte of a word: the byte at the lower address (R300, 20_memory.md R210). -/
def highByte (w : Word) : Byte := w.extractLsb' 8 8

/-- The low byte of a word: the byte at the higher address (R300, 20_memory.md R210). -/
def lowByte (w : Word) : Byte := w.extractLsb' 0 8

/-- The two bytes of an instruction, the lower address first (R300). -/
def encodeBytes (i : Instr) : List Byte := [highByte (encode i), lowByte (encode i)]

/-- The family nibble that R305 gives the instruction's row. -/
def familyOf : Instr → Nat
  | .cls => 0x0
  | .ret => 0x0
  | .jp _ => 0x1
  | .call _ => 0x2
  | .seImm _ _ => 0x3
  | .sneImm _ _ => 0x4
  | .seReg _ _ => 0x5
  | .ldImm _ _ => 0x6
  | .addImm _ _ => 0x7
  | .ldReg _ _ => 0x8
  | .orReg _ _ => 0x8
  | .andReg _ _ => 0x8
  | .xorReg _ _ => 0x8
  | .addReg _ _ => 0x8
  | .subReg _ _ => 0x8
  | .shr _ _ => 0x8
  | .subnReg _ _ => 0x8
  | .shl _ _ => 0x8
  | .sneReg _ _ => 0x9
  | .ldI _ => 0xA
  | .jpV0 _ => 0xB
  | .rnd _ _ => 0xC
  | .drw _ _ _ => 0xD
  | .skp _ => 0xE
  | .sknp _ => 0xE
  | .ldVxDT _ => 0xF
  | .ldVxK _ => 0xF
  | .ldDTVx _ => 0xF
  | .ldSTVx _ => 0xF
  | .addIVx _ => 0xF
  | .ldFVx _ => 0xF
  | .ldBVx _ => 0xF
  | .storeRegs _ => 0xF
  | .loadRegs _ => 0xF

/-- The word of an instruction whose bits, numbered as spec/opcode_table.json numbers them, are `w`: the bits
at and above `nbits` are 0. -/
def tableWord (nbits w : Nat) : Word := BitVec.ofNat 16 (w % 2 ^ nbits)

/-- The instruction the decoder reads from an instruction whose bits are `w`: its two bytes are laid out as
the hardware stores them, the high byte at the lower address (R300), and given to `decodeBytes`. An instruction
has 16 bits, so a row of more than 16 does not exist. -/
def decodeTableWord (nbits w : Nat) : Option Instr :=
  if nbits ≤ 16 then
    match decodeBytes [highByte (tableWord nbits w), lowByte (tableWord nbits w)] with
    | .ok (i, _) => some i
    | .error _ => none
  else none

end Sys2Proof
end

