-- ==== Sys2Proof/Config.lean ====
section
/-! DEFINITION. The parameters of the core (00_scope.md R8) and its one free value, the random draw. -/

namespace Sys2Proof.Config

/-- MEM_SIZE: addresses 0..4095 (R8, R200). -/
def memSize : Nat := 4096

/-- PROG_BASE, where a program is loaded (R8, R205). -/
def progBase : Nat := 0x200

/-- MAX_ROM, the largest program in bytes (R8, R1101). -/
def maxRom : Nat := memSize - progBase

/-- RESET_PC (R8, R116). -/
def resetPc : Word := 0x200

/-- The free draw `rnd` of RND (42_alu.md R670): draw number k is `freeDraw k`, of which nothing is known.
It has no body, so no proof can lean on a value of it. (log 2) -/
opaque freeDraw : Nat → Byte

/-- The glyph rows of the digits 0 to 7 in the spec's default table (20_memory.md R206). PRESUMED, log 1. -/
def fontLow : List Byte :=
  [0xF0, 0x90, 0x90, 0x90, 0xF0] ++
  [0x20, 0x60, 0x20, 0x20, 0x70] ++
  [0xF0, 0x10, 0xF0, 0x80, 0xF0] ++
  [0xF0, 0x10, 0xF0, 0x10, 0xF0] ++
  [0x90, 0x90, 0xF0, 0x10, 0x10] ++
  [0xF0, 0x80, 0xF0, 0x10, 0xF0] ++
  [0xF0, 0x80, 0xF0, 0x90, 0xF0] ++
  [0xF0, 0x10, 0x20, 0x40, 0x40]

/-- The glyph rows of the digits 8 to F in the spec's default table (20_memory.md R206). PRESUMED, log 1. -/
def fontHigh : List Byte :=
  [0xF0, 0x90, 0xF0, 0x90, 0xF0] ++
  [0xF0, 0x90, 0xF0, 0x10, 0xF0] ++
  [0xF0, 0x90, 0xF0, 0x90, 0x90] ++
  [0xE0, 0x90, 0xE0, 0x90, 0xE0] ++
  [0xF0, 0x80, 0x80, 0x80, 0xF0] ++
  [0xE0, 0x90, 0x90, 0x90, 0xE0] ++
  [0xF0, 0x80, 0xF0, 0x80, 0xF0] ++
  [0xF0, 0x80, 0xF0, 0x80, 0x80]

/-- The default of the parameter FONT, 80 bytes (R206). PRESUMED: the spec marks the table as general
knowledge. The machine takes the font as a field of its state, so only what names `defaultFont` rests on it. -/
def defaultFont : Vector Byte 80 :=
  ⟨(fontLow ++ fontHigh).toArray, rfl⟩

end Sys2Proof.Config
end

