-- ==== Sys2Proof/Machine/State.lean ====
section
/-! DEFINITION. The state of chip8_core as plain data (10_state.md, 20_memory.md), its reasons to stop, and its
value after reset (10_state.md R180, 20_memory.md R230). -/

namespace Sys2Proof.Machine

/-- The run state of the Execution Driver (R140). -/
inductive RunState where
  | running
  | halted
  deriving DecidableEq, Repr

/-- The four faults of the core (60_exceptions.md R1000). Each is taken as a next state (R1010); none of them
is an `Outcome.fault`. -/
inductive FaultKind where
  /-- A word that is no instruction (R1001). -/
  | decodeFault
  /-- CALL with sp = 16 (R1002). -/
  | stackOverflow
  /-- RET with sp = 0 (R1003). -/
  | stackUnderflow
  /-- An access above address 4095 (R1004). -/
  | addressOutOfRange
  deriving DecidableEq, Repr

/-- The atomic events that change the state (00_scope.md R20). -/
inductive Event where
  /-- One fetch-decode-execute step, or one check of a pending key wait (R400). -/
  | cpuStep
  /-- One decrement of both timers (R950). -/
  | timerTick
  /-- The host sets key k to pressed (true) or released (false) (R960). -/
  | keySet (k : Fin 16) (pressed : Bool)
  /-- The host takes a snapshot of the framebuffer and clears dirty (R850). -/
  | present
  /-- The host resets the core and loads a program (R1100). -/
  | reset (rom : List Byte)
  deriving DecidableEq, Repr

/-- Memory: the bytes that differ from what an unlisted address reads as (`unlistedByte`), by rising address. -/
abbrev Memory := List Host.Cell

/-- The 64x32 matrix of cells: row r in 0..31, column c in 0..63 (R125). -/
abbrev Framebuffer := Vector (Vector Bool 64) 32

/-- FONT, the parameter of R8 and R206: the byte at address a is `font[a]` after reset. -/
abbrev Font := Vector Byte 80

/-- Everything the spec gives the machine (INVENTORY.md, '## State'), and three fields of the model's own:
`font` (log 1), `draws` (log 2) and `schedule` (log 3). -/
structure State where
  /-- V0..VF (R100). -/
  v : Vector Byte 16
  /-- The index register I (R110). -/
  i : Word
  /-- The program counter (R115). -/
  pc : Word
  /-- The stack pointer, 0..16: the next free slot (R120; log 7). -/
  sp : Fin 17
  /-- The call stack (R121). -/
  stack : Vector Word 16
  /-- The memory image (R200; log 12). -/
  mem : Memory
  /-- The framebuffer (R125). -/
  fb : Framebuffer
  /-- The framebuffer changed since the last `Present` (R130). -/
  dirty : Bool
  /-- The keys, bit k for key k, 1 = pressed (R135; log 8). -/
  keys : BitVec 16
  /-- The delay timer (R138). -/
  delay : Byte
  /-- The sound timer (R138). -/
  sound : Byte
  /-- Running or Halted (R140). -/
  run : RunState
  /-- The code of the fault that halted the core, 0 = none (R141). -/
  faultCause : BitVec 3
  /-- The address of the faulting instruction (R142). -/
  faultPc : Word
  /-- The word of the faulting instruction, 0 for a fetch fault (R143). -/
  faultWord : Word
  /-- The first address above 4095 of a failed access (R144). -/
  faultAddr : Word
  /-- The destination register of a pending key wait (R150). -/
  wait : Option Reg
  /-- The keys as the last step of a wait saw them (R151). -/
  waitSnap : BitVec 16
  /-- The port load_status: 0 = ok, 5 = RomLoadError (R170). -/
  loadStatus : BitVec 3
  /-- The model's own: the parameter FONT, written by no event (log 1). -/
  font : Font
  /-- The model's own: how many random bytes have been drawn (log 2). -/
  draws : Nat
  /-- The model's own: the events still to come, in order; when it is empty a CpuStep comes next (log 3). -/
  schedule : List Event
  deriving DecidableEq, Repr

/-- The reasons for an `Outcome.fault`. There is none, and the type is empty: every fault of the core is an entry
that the spec describes (60_exceptions.md R1010) and so a next state, and an event that is not enabled changes
nothing (log 4, log 5). Nobody raises one; safe. -/
inductive Fault where
  deriving DecidableEq, Repr

/-- The reasons for an `Outcome.refused`. -/
inductive Refusal where
  /-- Raised by an arm of `exec` for an instruction without a meaning; no arm raises it now. Safe. -/
  | notModelled (mnemonic : String)
  deriving DecidableEq, Repr

/-- What a meaning answers. -/
abbrev Result := Host.Outcome State Fault Refusal

/-- The framebuffer with every cell 0 (R125, R800). -/
def blankFb : Framebuffer := Vector.replicate 32 (Vector.replicate 64 false)

/-- The machine right after a successful `Reset` with an empty program (70_reset_and_hazards.md R1100, R1101):
every value of 10_state.md R180, memory with nothing listed (FONT and 0, R230). The font is the spec's default
(log 1), no byte has been drawn (log 2) and no event is scheduled (log 3, log 9). -/
def State.reset : State where
  v := Vector.replicate 16 0
  i := 0
  pc := Config.resetPc
  sp := 0
  stack := Vector.replicate 16 0
  mem := []
  fb := blankFb
  dirty := false
  keys := 0
  delay := 0
  sound := 0
  run := .running
  faultCause := 0
  faultPc := 0
  faultWord := 0
  faultAddr := 0
  wait := none
  waitSnap := 0
  loadStatus := 0
  font := Config.defaultFont
  draws := 0
  schedule := []

end Sys2Proof.Machine
end

