-- ==== Sys2Proof/Machine/Ops.lean ====
section
/-! DEFINITION. The named operations every meaning is written over: registers, pc, stack, memory, keys, fetch,
and taking a fault, the one exception entry of the core (60_exceptions.md R1010). The core has no return from a
fault (R1012): only the event `Reset` leaves Halted. -/

namespace Sys2Proof.Machine

/-! ### Registers and pc -/

/-- `V[r]` (R100). -/
def State.readV (s : State) (r : Reg) : Byte := s.v[r.val]

/-- `V[r] <- b` (R100). -/
def State.writeV (s : State) (r : Reg) (b : Byte) : State := { s with v := s.v.set r.val b }

/-- The default advance `pc <- pc + 2` (40_cycle.md R410; log 10). -/
def State.advance (s : State) : State := { s with pc := s.pc + 2 }

/-- `pc <- a`, a control transfer (R411). -/
def State.jumpTo (s : State) (a : Word) : State := { s with pc := a }

/-- A skip on the advanced pc: 2 more when the condition holds (41_flow.md R500). -/
def State.skipIf (s : State) (c : Bool) : State := if c then { s with pc := s.pc + 2 } else s

/-! ### The call stack (R120, R121) -/

/-- CALL's push: `stack[sp] <- a; sp <- sp + 1`, none when all 16 slots are used (41_flow.md R520). -/
def State.pushReturn (s : State) (a : Word) : Option State :=
  if h : s.sp.val < 16 then
    some { s with stack := s.stack.set s.sp.val a, sp := ⟨s.sp.val + 1, by omega⟩ }
  else none

/-- RET's pop: `sp <- sp - 1`, then the slot at sp, which keeps its value; none when the stack is empty (R510). -/
def State.popReturn (s : State) : Option (Word × State) :=
  if h : 0 < s.sp.val then
    some (s.stack[s.sp.val - 1]'(by omega), { s with sp := ⟨s.sp.val - 1, by omega⟩ })
  else none

/-! ### Memory (20_memory.md) -/

/-- What an address no entry lists reads as: the reset contents without a program, FONT at 0x000..0x04F and 0
elsewhere (R230). Above 4095 there is no memory and no access gets here (R220; log 12). -/
def unlistedByte (font : Font) (a : Nat) : Byte := if h : a < 80 then font[a] else 0

/-- The byte at an address. -/
def Memory.read (font : Font) : Memory → Nat → Byte
  | [], a => unlistedByte font a
  | (k, b) :: m, a => if k = a then b else Memory.read font m a

/-- Store one byte, keeping the canonical form: an entry equal to what an unlisted address reads as is left out. -/
def Memory.write (font : Font) : Memory → Nat → Byte → Memory
  | [], a, b => if b = unlistedByte font a then [] else [(a, b)]
  | (k, c) :: m, a, b =>
    if a < k then
      if b = unlistedByte font a then (k, c) :: m else (a, b) :: (k, c) :: m
    else if a = k then
      if b = unlistedByte font a then m else (a, b) :: m
    else (k, c) :: Memory.write font m a b

/-- Store bytes at rising addresses from `a`. -/
def Memory.writeBytes (font : Font) : Memory → Nat → List Byte → Memory
  | m, _, [] => m
  | m, a, b :: bs => Memory.writeBytes font (Memory.write font m a b) (a + 1) bs

/-- The canonical form from address `lo` on: strictly rising addresses of the space 0..4095 (R200), and no entry
equal to what an unlisted address reads as. -/
def Memory.wfFrom (font : Font) : Nat → Memory → Bool
  | _, [] => true
  | lo, (a, b) :: m =>
    decide (lo ≤ a) && decide (a < Config.memSize) && decide (b ≠ unlistedByte font a) &&
      Memory.wfFrom font (a + 1) m

/-- The canonical form of a memory. -/
def Memory.wf (font : Font) (m : Memory) : Bool := Memory.wfFrom font 0 m

/-- `mem[a]` (R200). -/
def State.byteAt (s : State) (a : Nat) : Byte := Memory.read s.font s.mem a

/-- The range check of an access to n bytes at a (00_scope.md R10, 20_memory.md R220): the first address above
4095 when there is one. An access to no byte touches no address. -/
def rangeFault (a n : Nat) : Option Nat :=
  if n = 0 then none
  else if a + n - 1 ≤ 4095 then none
  else if a > 4095 then some a else some 4096

/-- `MemRead(a, n)`: the n bytes at a, or the first address above 4095. All or nothing (R222). -/
def State.memRead (s : State) (a n : Nat) : Except Nat (List Byte) :=
  match rangeFault a n with
  | some bad => .error bad
  | none => .ok ((List.range n).map fun j => s.byteAt (a + j))

/-- `MemWrite(a, n, bytes)`, or the first address above 4095. All or nothing (R222); no address is protected (R207). -/
def State.memWrite (s : State) (a : Nat) (bytes : List Byte) : Except Nat State :=
  match rangeFault a bytes.length with
  | some bad => .error bad
  | none => .ok { s with mem := Memory.writeBytes s.font s.mem a bytes }

/-- `Fetch(pc)`, big-endian, or the first address above 4095 (40_cycle.md R401, 20_memory.md R210, R221). No
alignment is required (R215). -/
def State.fetch (s : State) : Except Nat Word :=
  match rangeFault s.pc.toNat 2 with
  | some bad => .error bad
  | none => .ok (wordOfBytes (s.byteAt s.pc.toNat) (s.byteAt (s.pc.toNat + 1)))

/-! ### Keys (45_keypad_timer.md) -/

/-- `keys[k]`: is key k pressed (R135). -/
def State.keyDown (s : State) (k : Fin 16) : Bool := s.keys.getLsbD k.val

/-- `keys[k] <- b` on the key vector (R960). -/
def setKey (keys : BitVec 16) (k : Fin 16) (b : Bool) : BitVec 16 :=
  if b then keys ||| BitVec.twoPow 16 k.val else keys &&& ~~~ BitVec.twoPow 16 k.val

/-- The least k with `e[k] = 1` (R931). -/
def leastKey (e : BitVec 16) : Option (Fin 16) := (List.finRange 16).find? fun k => e.getLsbD k.val

/-! ### Taking a fault (60_exceptions.md R1010) -/

/-- The numeric codes of R1000. -/
def FaultKind.code : FaultKind → BitVec 3
  | .decodeFault => 1
  | .stackOverflow => 2
  | .stackUnderflow => 3
  | .addressOutOfRange => 4

/-- Fault entry (R1010) from the state BEFORE the faulting step, whose pc is the address p of the faulting
instruction: pc stays p and no write of the step is in it, so the fault is precise (R425, R1011). `w` is the
instruction word (0 for a fetch fault) and `a` the first address above 4095 (0 for the other faults). -/
def State.takeFault (s : State) (k : FaultKind) (w : Word) (a : Nat) : State :=
  { s with
    run := .halted
    faultCause := k.code
    faultPc := s.pc
    faultWord := w
    faultAddr := BitVec.ofNat 16 a
    pc := s.pc }

end Sys2Proof.Machine
end

