-- ==== Sys2Proof/Machine/Flags.lean ====
section
/-! DEFINITION. The flag computations (42_alu.md R600, R602): the only flags are the values 0 and 1 written to VF.
The collision flag of DRW is computed by the sprite engine (Display.lean). -/

namespace Sys2Proof.Machine

/-- A flag as the value written to VF: 0 or 1 (R600). -/
def flagByte (f : Bool) : Byte := if f then 1 else 0

/-- Carry of 8xy4: the sum of a and b exceeds 255 (R600, R640). -/
def carryFlag (a b : Byte) : Bool := decide (a.toNat + b.toNat > 255)

/-- "No borrow" of a - b: the minuend is strictly greater than the subtrahend (R600, R602). -/
def noBorrowFlag (a b : Byte) : Bool := decide (a.toNat > b.toNat)

/-- The bit a right shift moves out: bit 0 (R650). -/
def shiftOutRight (a : Byte) : Bool := a.getLsbD 0

/-- The bit a left shift moves out: bit 7 (R660). -/
def shiftOutLeft (a : Byte) : Bool := a.getLsbD 7

/-- `V[15] <- f` (R101). -/
def State.writeFlag (s : State) (f : Bool) : State := s.writeV VF (flagByte f)

/-- A result and its flag: `V[x] <- r`, then `V[15] <- f`, the flag last, so that x = 15 keeps the flag (40_cycle.md R421). -/
def State.writeResult (s : State) (x : Reg) (r : Byte) (f : Bool) : State := (s.writeV x r).writeFlag f

end Sys2Proof.Machine
end

