-- ==== Sys2Proof/Machine/Operands.lean ====
section
/-! DEFINITION. The operand forms (30_encoding.md R303): immediates are zero-extended, a key index is a low nibble,
memory is reached at I + j, and register ranges run from V0 to Vx. -/

namespace Sys2Proof.Machine

/-- `zext_16(nnn)`: a target address or a new value of I (R303). -/
def addrOperand (nnn : BitVec 12) : Word := nnn.setWidth 16

/-- The target of JP V0: `V[0] + nnn`, at most 0x10FE (41_flow.md R540). -/
def offsetTarget (v0 : Byte) (nnn : BitVec 12) : Word := v0.setWidth 16 + nnn.setWidth 16

/-- The key a register names: its low nibble (45_keypad_timer.md R906; log 11). -/
def keyOperand (a : Byte) : Fin 16 := (a.extractLsb' 0 4).toFin

/-- The base address of an access through I (10_state.md R110): I as a number, so that I + j does not wrap (R220). -/
def State.baseAddr (s : State) : Nat := s.i.toNat

/-- `I + a` modulo 2^16 (43_index_memory.md R710). -/
def indexSum (i : Word) (a : Byte) : Word := i + a.setWidth 16

/-- `5 * a`, the address of glyph a, not masked (43_index_memory.md R720). -/
def glyphAddr (a : Byte) : Word := BitVec.ofNat 16 (5 * a.toNat)

/-- The decimal digits of a: hundreds, tens, ones (43_index_memory.md R730). -/
def bcdDigits (a : Byte) : List Byte :=
  [BitVec.ofNat 8 (a.toNat / 100), BitVec.ofNat 8 (a.toNat / 10 % 10), BitVec.ofNat 8 (a.toNat % 10)]

/-- The values of V0..Vx, in order (43_index_memory.md R745). -/
def State.readRegs (s : State) (x : Reg) : List Byte := s.v.toList.take (x.val + 1)

/-- `V[j] <- bytes[j]` for every j the list has; the other registers keep their values (43_index_memory.md R750). -/
def State.writeRegs (s : State) (bytes : List Byte) : State :=
  { s with v := Vector.ofFn fun j : Fin 16 => (bytes[j.val]?).getD s.v[j.val] }

end Sys2Proof.Machine
end

