-- ==== Sys2Proof/Machine/Alu.lean ====
section
/-! DEFINITION. Register loads, the ALU and the random byte (42_alu.md). All operands are read before any write
(40_cycle.md R420). -/

namespace Sys2Proof.Machine

/-- 6xkk LD Vx, kk (R610). -/
def execLdImm (x : Reg) (kk : Byte) (s : State) : Result := .next (s.advance.writeV x kk)

/-- 7xkk ADD Vx, kk (R615): modulo 256, no flag. -/
def execAddImm (x : Reg) (kk : Byte) (s : State) : Result := .next (s.advance.writeV x (s.readV x + kk))

/-- 8xy0 LD Vx, Vy (R620). -/
def execLdReg (x y : Reg) (s : State) : Result := .next (s.advance.writeV x (s.readV y))

/-- 8xy1 OR Vx, Vy (R625): no flag. -/
def execOrReg (x y : Reg) (s : State) : Result := .next (s.advance.writeV x (s.readV x ||| s.readV y))

/-- 8xy2 AND Vx, Vy (R630): no flag. -/
def execAndReg (x y : Reg) (s : State) : Result := .next (s.advance.writeV x (s.readV x &&& s.readV y))

/-- 8xy3 XOR Vx, Vy (R635): no flag. -/
def execXorReg (x y : Reg) (s : State) : Result := .next (s.advance.writeV x (s.readV x ^^^ s.readV y))

/-- 8xy4 ADD Vx, Vy (R640): VF is the carry. -/
def execAddReg (x y : Reg) (s : State) : Result :=
  .next (s.advance.writeResult x (s.readV x + s.readV y) (carryFlag (s.readV x) (s.readV y)))

/-- 8xy5 SUB Vx, Vy (R645): Vx - Vy, VF = 1 exactly when Vx > Vy. -/
def execSubReg (x y : Reg) (s : State) : Result :=
  .next (s.advance.writeResult x (s.readV x - s.readV y) (noBorrowFlag (s.readV x) (s.readV y)))

/-- 8xy6 SHR Vx (R650): shifts Vx; y is not read. -/
def execShr (x _y : Reg) (s : State) : Result :=
  .next (s.advance.writeResult x (s.readV x >>> 1) (shiftOutRight (s.readV x)))

/-- 8xy7 SUBN Vx, Vy (R655): Vy - Vx, VF = 1 exactly when Vy > Vx. -/
def execSubnReg (x y : Reg) (s : State) : Result :=
  .next (s.advance.writeResult x (s.readV y - s.readV x) (noBorrowFlag (s.readV y) (s.readV x)))

/-- 8xyE SHL Vx (R660): shifts Vx; y is not read. -/
def execShl (x _y : Reg) (s : State) : Result :=
  .next (s.advance.writeResult x (s.readV x <<< 1) (shiftOutLeft (s.readV x)))

/-- Cxkk RND Vx, kk with the draw `r` given: `V[x] <- r & kk` (R670). -/
def State.writeMaskedDraw (s : State) (x : Reg) (kk r : Byte) : State := s.writeV x (r &&& kk)

/-- Cxkk RND Vx, kk (R670): one fresh draw, a free value (log 2), masked by kk; no flag. -/
def execRnd (x : Reg) (kk : Byte) (s : State) : Result :=
  .next { s.advance.writeMaskedDraw x kk (Config.freeDraw s.draws) with draws := s.draws + 1 }

end Sys2Proof.Machine
end

