-- ==== Sys2Proof/Machine/Display.lean ====
section
/-! DEFINITION. The display instructions and the sprite engine (44_display.md). -/

namespace Sys2Proof.Machine

/-- `fb[r][c]` (R125). -/
def cellAt (fb : Framebuffer) (r : Fin 32) (c : Fin 64) : Bool := fb[r.val][c.val]

/-- `fb[r][c] <- fb[r][c] ^ 1` (R810). -/
def flipCell (fb : Framebuffer) (r : Fin 32) (c : Fin 64) : Framebuffer :=
  fb.set r.val (fb[r.val].set c.val (!cellAt fb r c))

/-- The row a sprite row lands on: modulo 32 (R812). -/
def wrapRow (r : Nat) : Fin 32 := ⟨r % 32, Nat.mod_lt _ (by decide)⟩

/-- The column a sprite column lands on: modulo 64 (R812). -/
def wrapCol (c : Nat) : Fin 64 := ⟨c % 64, Nat.mod_lt _ (by decide)⟩

/-- What a draw has done so far: the framebuffer, the collision flag and whether a cell changed (R810). -/
structure Drawing where
  fb : Framebuffer
  coll : Bool
  changed : Bool
  deriving DecidableEq, Repr

/-- One set sprite bit at row r, column c: the collision flag takes the cell's value before the XOR (R813), the
cell flips. -/
def Drawing.plot (d : Drawing) (r c : Nat) : Drawing :=
  { fb := flipCell d.fb (wrapRow r) (wrapCol c)
    coll := d.coll || cellAt d.fb (wrapRow r) (wrapCol c)
    changed := true }

/-- One sprite row with its left end at row r, column cx: column offset c is bit 7 - c of the byte (R811; log 11). -/
def Drawing.drawRow (d : Drawing) (r cx : Nat) (row : Byte) : Drawing :=
  (List.range 8).foldl (fun d c => if row.getLsbD (7 - c) then d.plot r (cx + c) else d) d

/-- The sprite rows from row cy on (R810, R812). -/
def Drawing.drawRows (d : Drawing) (cy cx : Nat) : List Byte → Drawing
  | [] => d
  | row :: rows => Drawing.drawRows (d.drawRow cy cx row) (cy + 1) cx rows

/-- The compositor: the sprite's rows at origin column cx, row cy on a framebuffer (R810). -/
def drawSprite (fb : Framebuffer) (cy cx : Nat) (rows : List Byte) : Drawing :=
  Drawing.drawRows { fb := fb, coll := false, changed := false } cy cx rows

/-- 00E0 CLS (R800): dirty is set even when nothing changed. -/
def execCls (s : State) : Result := .next { s.advance with fb := blankFb, dirty := true }

/-- Dxyn DRW Vx, Vy, n (R810): column origin Vx, row origin Vy, read before VF is written. Dirty is set when a
cell changed and never cleared (R814). -/
def execDrw (x y : Reg) (n : Nat) (s : State) : Result :=
  match s.memRead s.baseAddr n with
  | .ok rows =>
    let d := drawSprite s.fb (s.readV y).toNat (s.readV x).toNat rows
    .next (State.writeFlag { s.advance with fb := d.fb, dirty := s.dirty || d.changed } d.coll)
  | .error a => .next (s.takeFault .addressOutOfRange (encode (.drw x y n)) a)

end Sys2Proof.Machine
end

