-- ==== Sys2Proof/Machine/Flow.lean ====
section
/-! DEFINITION. Control transfer (41_flow.md). A meaning takes the state with pc at the instruction itself and
makes the default advance (40_cycle.md R410) as its first act; a fault is taken from the state before it. -/

namespace Sys2Proof.Machine

/-- 00EE RET (R510). -/
def execRet (s : State) : Result :=
  match s.advance.popReturn with
  | some (a, t) => .next (t.jumpTo a)
  | none => .next (s.takeFault .stackUnderflow (encode .ret) 0)

/-- 1nnn JP nnn (R515). -/
def execJp (nnn : BitVec 12) (s : State) : Result := .next (s.advance.jumpTo (addrOperand nnn))

/-- 2nnn CALL nnn (R520). The advanced pc is the return address. -/
def execCall (nnn : BitVec 12) (s : State) : Result :=
  match s.advance.pushReturn s.advance.pc with
  | some t => .next (t.jumpTo (addrOperand nnn))
  | none => .next (s.takeFault .stackOverflow (encode (.call nnn)) 0)

/-- 3xkk SE Vx, kk (R525). -/
def execSeImm (x : Reg) (kk : Byte) (s : State) : Result := .next (s.advance.skipIf (s.readV x == kk))

/-- 4xkk SNE Vx, kk (R530). -/
def execSneImm (x : Reg) (kk : Byte) (s : State) : Result := .next (s.advance.skipIf (s.readV x != kk))

/-- 5xy0 SE Vx, Vy (R535). -/
def execSeReg (x y : Reg) (s : State) : Result := .next (s.advance.skipIf (s.readV x == s.readV y))

/-- 9xy0 SNE Vx, Vy (R538). -/
def execSneReg (x y : Reg) (s : State) : Result := .next (s.advance.skipIf (s.readV x != s.readV y))

/-- Bnnn JP V0, nnn (R540). -/
def execJpV0 (nnn : BitVec 12) (s : State) : Result := .next (s.advance.jumpTo (offsetTarget (s.readV 0) nnn))

end Sys2Proof.Machine
end

