-- ==== Sys2Proof/Machine/IndexMemory.lean ====
section
/-! DEFINITION. The index register and the memory transfers (43_index_memory.md). No instruction here writes a flag,
and LD B, LD [I] and LD Vx, [I] keep I (log 11). -/

namespace Sys2Proof.Machine

/-- Annn LD I, nnn (R700). -/
def execLdI (nnn : BitVec 12) (s : State) : Result := .next { s.advance with i := addrOperand nnn }

/-- Fx1E ADD I, Vx (R710): modulo 2^16, VF unchanged. -/
def execAddIVx (x : Reg) (s : State) : Result := .next { s.advance with i := indexSum s.i (s.readV x) }

/-- Fx29 LD F, Vx (R720). -/
def execLdFVx (x : Reg) (s : State) : Result := .next { s.advance with i := glyphAddr (s.readV x) }

/-- Fx33 LD B, Vx (R730). -/
def execLdBVx (x : Reg) (s : State) : Result :=
  match s.advance.memWrite s.baseAddr (bcdDigits (s.readV x)) with
  | .ok t => .next t
  | .error a => .next (s.takeFault .addressOutOfRange (encode (.ldBVx x)) a)

/-- Fx55 LD [I], Vx (R745). -/
def execStoreRegs (x : Reg) (s : State) : Result :=
  match s.advance.memWrite s.baseAddr (s.readRegs x) with
  | .ok t => .next t
  | .error a => .next (s.takeFault .addressOutOfRange (encode (.storeRegs x)) a)

/-- Fx65 LD Vx, [I] (R750). -/
def execLoadRegs (x : Reg) (s : State) : Result :=
  match s.memRead s.baseAddr (x.val + 1) with
  | .ok bytes => .next (s.advance.writeRegs bytes)
  | .error a => .next (s.takeFault .addressOutOfRange (encode (.loadRegs x)) a)

end Sys2Proof.Machine
end

