-- ==== Sys2Proof/Machine/KeypadTimer.lean ====
section
/-! DEFINITION. Keypad and timer instructions, and the step of a pending key wait (45_keypad_timer.md). None of
them writes VF as a flag or touches memory. -/

namespace Sys2Proof.Machine

/-- Ex9E SKP Vx (R900, R906). -/
def execSkp (x : Reg) (s : State) : Result := .next (s.advance.skipIf (s.keyDown (keyOperand (s.readV x))))

/-- ExA1 SKNP Vx (R905, R906). -/
def execSknp (x : Reg) (s : State) : Result := .next (s.advance.skipIf (!s.keyDown (keyOperand (s.readV x))))

/-- Fx07 LD Vx, DT (R920). -/
def execLdVxDT (x : Reg) (s : State) : Result := .next (s.advance.writeV x s.delay)

/-- Fx15 LD DT, Vx (R940). -/
def execLdDTVx (x : Reg) (s : State) : Result := .next { s.advance with delay := s.readV x }

/-- Fx18 LD ST, Vx (R945). -/
def execLdSTVx (x : Reg) (s : State) : Result := .next { s.advance with sound := s.readV x }

/-- Fx0A LD Vx, K (R930): entry into the wait; pc goes back to the instruction and the keys are sampled. -/
def execLdVxK (x : Reg) (s : State) : Result :=
  .next { s.advance with pc := s.pc, wait := some x, waitSnap := s.keys }

/-- `WaitStep(x)` (R931): the least key that is down now and was up at the last sample ends the wait; otherwise the
sample is refreshed, so that a release followed by a press counts. -/
def State.waitStep (s : State) (x : Reg) : State :=
  match leastKey (s.keys &&& ~~~ s.waitSnap) with
  | some k => { s.writeV x (BitVec.ofNat 8 k.val) with pc := s.pc + 2, wait := none }
  | none => { s with waitSnap := s.keys }

end Sys2Proof.Machine
end

