-- ==== Sys2Proof/Machine/Cycle.lean ====
section
/-! DEFINITION. One `CpuStep` (40_cycle.md R400). -/

namespace Sys2Proof.Machine

/-- `CpuStep` of a Running core (R400, R426): a pending key wait takes its wait step and fetches nothing; otherwise
fetch, decode, and execute, the first check that fails being the one fault taken. -/
def runningStep (s : State) : Result :=
  match s.wait with
  | some x => .next (s.waitStep x)
  | none =>
    match s.fetch with
    | .error a => .next (s.takeFault .addressOutOfRange 0 a)
    | .ok w =>
      match decode w with
      | .error _ => .next (s.takeFault .decodeFault w 0)
      | .ok i => exec i s

/-- `CpuStep`. It is enabled only while Running; in Halted nothing changes (00_scope.md R22, 60_exceptions.md R1012;
log 4). -/
def cpuStep (s : State) : Result :=
  match s.run with
  | .running => runningStep s
  | .halted => .next s

end Sys2Proof.Machine
end

