-- ==== Sys2Proof/Machine/Events.lean ====
section
/-! DEFINITION. The events of 00_scope.md R20: the host's four beside `CpuStep`. -/

namespace Sys2Proof.Machine

/-- A timer's decrement, which stops at 0 (45_keypad_timer.md R950). -/
def tickDown (t : Byte) : Byte := if t.toNat > 0 then t - 1 else t

/-- `TimerTick` (R950): one tick for both timers. It is enabled only while Running, a key wait included; in Halted
nothing changes (00_scope.md R22; log 4). -/
def State.timerTick (s : State) : State :=
  match s.run with
  | .running => { s with delay := tickDown s.delay, sound := tickDown s.sound }
  | .halted => s

/-- `KeySet(k, b)` (R960): always enabled; it does not wake a waiting CPU. -/
def State.keySet (s : State) (k : Fin 16) (b : Bool) : State := { s with keys := setKey s.keys k b }

/-- `Present` (44_display.md R850): the host's copy of the framebuffer, and the state with dirty cleared. -/
def State.present (s : State) : Framebuffer × State := (s.fb, { s with dirty := false })

/-- Every field the spec gives the core at its reset value (10_state.md R180); the parameter FONT, the count of draws
and the events still to come are not the core's to reset (log 1, log 2, log 3). -/
def State.clear (s : State) : State :=
  { State.reset with font := s.font, draws := s.draws, schedule := s.schedule }

/-- `Reset(rom)` (70_reset_and_hazards.md R1100): always enabled. A program of at most 3584 bytes is loaded at 0x200,
byte j at 0x200 + j; a longer one leaves the core Halted with load_status = 5 and no fault recorded (R1101). -/
def State.resetWith (s : State) (rom : List Byte) : State :=
  if rom.length > Config.maxRom then
    { s.clear with run := .halted, loadStatus := 5 }
  else
    { s.clear with mem := Memory.writeBytes s.font [] Config.progBase rom }

/-- One event (00_scope.md R20). The host keeps the snapshot of `Present`; it is not state (10_state.md R155; log 13). -/
def runEvent (e : Event) (s : State) : Result :=
  match e with
  | .cpuStep => cpuStep s
  | .timerTick => .next s.timerTick
  | .keySet k b => .next (s.keySet k b)
  | .present => .next s.present.2
  | .reset rom => .next (s.resetWith rom)

/-- The event that comes next, and the state it acts on: the head of the schedule, or a `CpuStep` when the schedule is
empty. Any order of events is some schedule (R20, R21; log 3). -/
def nextEvent (s : State) : Event × State :=
  match s.schedule with
  | [] => (.cpuStep, s)
  | e :: rest => (e, { s with schedule := rest })

/-- A state whose next event is a `CpuStep` that fetches and runs the given word: the two bytes lie at pc, the core is
Running, waits for no key and has no other event before it; a pc that cannot be fetched from becomes 0x200 (log 9). -/
def State.placeWord (s : State) (w : Word) : State :=
  let p : Word := if s.pc.toNat + 1 ≤ 4095 then s.pc else Config.resetPc
  { s with
    pc := p
    mem := Memory.writeBytes s.font s.mem p.toNat [highByte w, lowByte w]
    run := .running
    wait := none
    schedule := [] }

end Sys2Proof.Machine
end

