-- ==== Sys2Proof/Machine/Ports.lean ====
section
/-! DEFINITION. The level ports of the core (10_state.md R170): views of the state that the host may read between
events, without effect. -/

namespace Sys2Proof.Machine

/-- `fb_out`: fb[r][c] at bit r*64 + c (R170, 44_display.md R851). -/
def State.fbOut (s : State) : BitVec 2048 :=
  BitVec.ofFnLE fun k : Fin 2048 => cellAt s.fb (wrapRow (k.val / 64)) (wrapCol k.val)

/-- `fb_dirty` (R170). -/
def State.fbDirty (s : State) : Bool := s.dirty

/-- `sound_on`: 1 exactly when sound is not 0 (45_keypad_timer.md R951). -/
def State.soundOn (s : State) : Bool := decide (s.sound ≠ 0)

/-- `run_state`: 0 = Running, 1 = Halted (R170). -/
def State.runState (s : State) : BitVec 1 :=
  match s.run with
  | .running => 0
  | .halted => 1

/-- `waiting`: 1 when wait is not None (R170). -/
def State.waiting (s : State) : Bool := s.wait.isSome

/-- The fault ports `fault_cause`, `fault_pc`, `fault_word` and `fault_addr` (R170, R141 to R144). -/
def State.faultPorts (s : State) : BitVec 3 × Word × Word × Word :=
  (s.faultCause, s.faultPc, s.faultWord, s.faultAddr)

/-- `load_status` (R170). -/
def State.loadStatusPort (s : State) : BitVec 3 := s.loadStatus

end Sys2Proof.Machine
end

