-- ==== Sys2Proof/Machine/Step.lean ====
section
/-! DEFINITION. One step of the machine: the next event of the schedule, or a `CpuStep` (00_scope.md R20; log 3). -/

namespace Sys2Proof.Machine

/-- One atomic event. -/
def step (s : State) : Host.Outcome State Fault Refusal := runEvent (nextEvent s).1 (nextEvent s).2

/-- The state with the instruction whose bits are `w`, numbered as spec/opcode_table.json numbers them, where the very
next step fetches it. -/
def State.withFetchWord (s : State) (nbits w : Nat) : State := s.placeWord (tableWord nbits w)

end Sys2Proof.Machine
end

