-- ==== Sys2Proof/Safety.lean ====
section
/-! DEFINITION. The terms claims are stated in: the invariants of the machine, safe runs, and the frames that say
what a step leaves alone. -/

namespace Sys2Proof.Machine

/-! ### Invariants -/

/-- Memory is in its canonical form: rising addresses in 0..4095, no entry equal to the reset contents (20_memory.md
R200, R230). -/
abbrev MemCanonical (s : State) : Prop := Memory.wf s.font s.mem = true

/-- pc holds at most 0x10FE (10_state.md R115), every return address is at most 4096 (41_flow.md R510), and a waiting
CPU's pc is an address it fetched from (10_state.md R150). -/
def PcBounded (s : State) : Prop :=
  s.pc.toNat ≤ 0x10FE ∧ (∀ j : Fin 16, s.stack[j.val].toNat ≤ 4096) ∧
    (s.wait ≠ none → s.pc.toNat ≤ 4094)

/-- No fault is recorded (10_state.md R141 to R144). -/
def NoFaultRecorded (s : State) : Prop :=
  s.faultCause = 0 ∧ s.faultPc = 0 ∧ s.faultWord = 0 ∧ s.faultAddr = 0

/-- A fault is recorded: one of the four codes, at the pc the core stopped at, with an address exactly for
AddressOutOfRange (60_exceptions.md R1000, R1010, 10_state.md R144). -/
def FaultRecorded (s : State) : Prop :=
  (s.faultCause = 1 ∨ s.faultCause = 2 ∨ s.faultCause = 3 ∨ s.faultCause = 4) ∧ s.faultPc = s.pc ∧
    (s.faultCause ≠ 4 → s.faultAddr = 0) ∧ (s.faultCause = 4 → 4096 ≤ s.faultAddr.toNat)

/-- The run state agrees with the fault registers and load_status (10_state.md R140, R141, 70_reset_and_hazards.md
R1101): Running means a load that succeeded and no fault; Halted means a fault or a failed load, and no pending wait. -/
def RunConsistent (s : State) : Prop :=
  (s.run = .running → NoFaultRecorded s ∧ s.loadStatus = 0) ∧
  (s.run = .halted → s.wait = none ∧
    ((s.loadStatus = 5 ∧ NoFaultRecorded s) ∨ (s.loadStatus = 0 ∧ FaultRecorded s)))

/-- What every event keeps. -/
def Inv (s : State) : Prop := MemCanonical s ∧ PcBounded s ∧ RunConsistent s

/-! ### Runs -/

/-- t is reached from s by events. -/
inductive Reaches : State → State → Prop where
  | refl (s : State) : Reaches s s
  | step {s t u : State} (h : Reaches s t) (h' : Machine.step t = .next u) : Reaches s u

/-- The next n events from s all answer a next state and none of them leaves the core Halted. -/
def SafeRun : Nat → State → Prop
  | 0, s => s.run = .running
  | n + 1, s => s.run = .running ∧ ∃ t, Machine.step s = .next t ∧ SafeRun n t

/-- n `TimerTick` events. -/
def ticks : Nat → State → State
  | 0, s => s
  | n + 1, s => ticks n s.timerTick

/-- The next event of s is a CpuStep, and u is the state it acts on: s itself when nothing is scheduled, and s with the
CpuStep taken off when the schedule names one (00_scope.md R20; log 3). -/
def CpuStepFrom (s u : State) : Prop :=
  (s.schedule = [] ∧ u = s) ∨ ∃ rest, s.schedule = .cpuStep :: rest ∧ u = { s with schedule := rest }

/-- A CpuStep from here fetches: the core is Running and waits for no key (40_cycle.md R400). -/
def Fetching (u : State) : Prop := u.run = .running ∧ u.wait = none

/-- Every register the spec resets, other than the run state and load_status, is at its value of 10_state.md R180. -/
def ResetValues (t : State) : Prop :=
  (∀ r, t.readV r = 0) ∧ t.i = 0 ∧ t.pc = 0x200 ∧ t.sp.val = 0 ∧ (∀ j : Fin 16, t.stack[j.val] = 0) ∧
    (∀ r c, cellAt t.fb r c = false) ∧ t.dirty = false ∧ t.keys = 0 ∧ t.delay = 0 ∧ t.sound = 0 ∧
    NoFaultRecorded t ∧ t.wait = none ∧ t.waitSnap = 0

/-! ### Frames -/

/-- Every address reads the same byte. -/
def SameBytes (s t : State) : Prop := ∀ a, t.byteAt a = s.byteAt a

/-- Only V and pc may differ; every other piece of state, memory among them, is unchanged. -/
def OnlyRegsAndPc (s t : State) : Prop := t = { s with v := t.v, pc := t.pc } ∧ SameBytes s t

/-- The effect of an instruction that writes registers: register r becomes `f r`, pc moves past the instruction
(40_cycle.md R410), and nothing else changes. -/
def WritesRegs (s t : State) (f : Reg → Byte) : Prop :=
  (∀ r, t.readV r = f r) ∧ t.pc = s.pc + 2 ∧ OnlyRegsAndPc s t

/-- The effect of an instruction that writes memory: the byte at address a becomes `f a`, pc moves past the
instruction, and nothing else changes. -/
def WritesBytes (s t : State) (f : Nat → Byte) : Prop :=
  (∀ a, t.byteAt a = f a) ∧ t.pc = s.pc + 2 ∧ t = { s with mem := t.mem, pc := t.pc }

/-- Fault entry (60_exceptions.md R1010): Halted, the four fault registers written, pc kept at the instruction, and
nothing else changed. -/
def Faulted (s t : State) (cause : BitVec 3) (word addr : Word) : Prop :=
  t = { s with run := .halted, faultCause := cause, faultPc := s.pc, faultWord := word, faultAddr := addr } ∧
    SameBytes s t

/-- The fault address of an access whose first byte is at `a`: `a` itself above 4095, else 4096 (10_state.md R144). -/
def firstBadAddr (a : Word) : Word := if a.toNat > 4095 then a else 4096

/-- The sprite bit that falls on cell (r, c) when the rows are drawn at row cy, column cx (44_display.md R811, R812):
the cell's offset from the origin, wrapped, lies in the sprite and bit 7 - offset of that row is 1. -/
def spriteBit (rows : List Byte) (cy cx : Nat) (r : Fin 32) (c : Fin 64) : Bool :=
  let dr := (r.val + 32 - cy % 32) % 32
  let dc := (c.val + 64 - cx % 64) % 64
  match rows[dr]? with
  | some row => decide (dc < 8) && row.getLsbD (7 - dc)
  | none => false

/-- The n sprite rows at I (44_display.md R810). -/
def spriteRows (s : State) (n : Nat) : List Byte := (List.range n).map fun j => s.byteAt (s.i.toNat + j)

/-! ### Instructions sorted by what they do -/

/-- How many bytes at I the instruction accesses (20_memory.md R201); none when it accesses none. -/
def accessLength : Instr → Option Nat
  | .ldBVx _ => some 3
  | .storeRegs x => some (x.val + 1)
  | .loadRegs x => some (x.val + 1)
  | .drw _ _ n => if n = 0 then none else some n
  | .cls | .ret | .jp _ | .call _ | .seImm _ _ | .sneImm _ _ | .seReg _ _ | .ldImm _ _ | .addImm _ _
  | .ldReg _ _ | .orReg _ _ | .andReg _ _ | .xorReg _ _ | .addReg _ _ | .subReg _ _ | .shr _ _
  | .subnReg _ _ | .shl _ _ | .sneReg _ _ | .ldI _ | .jpV0 _ | .rnd _ _ | .skp _ | .sknp _ | .ldVxDT _
  | .ldVxK _ | .ldDTVx _ | .ldSTVx _ | .addIVx _ | .ldFVx _ => none

/-- The instruction's own check fails in this state (40_cycle.md R426, check 3). -/
def OwnCheckFails (i : Instr) (s : State) : Prop :=
  ((∃ nnn, i = .call nnn) ∧ s.sp.val = 16) ∨ (i = .ret ∧ s.sp.val = 0) ∨
    ∃ n, accessLength i = some n ∧ 4095 < s.i.toNat + n - 1

/-- The instruction may write register r: as its destination, as one of the registers it loads, or as its flag
(10_state.md R102). -/
def MayWriteReg (i : Instr) (r : Reg) : Prop :=
  match i with
  | .addReg x _ | .subReg x _ | .shr x _ | .subnReg x _ | .shl x _ => r = x ∨ r = VF
  | .drw _ _ _ => r = VF
  | .ldImm x _ | .addImm x _ | .rnd x _ | .ldVxDT x => r = x
  | .ldReg x _ | .orReg x _ | .andReg x _ | .xorReg x _ => r = x
  | .loadRegs x => r ≤ x
  | .cls | .ret | .jp _ | .call _ | .seImm _ _ | .sneImm _ _ | .seReg _ _ | .sneReg _ _ | .ldI _ | .jpV0 _
  | .skp _ | .sknp _ | .ldVxK _ | .ldDTVx _ | .ldSTVx _ | .addIVx _ | .ldFVx _ | .ldBVx _ | .storeRegs _ => False

/-- The instruction may write VF: as a flag, or because its destination is or holds V[15] (10_state.md R101). -/
def MayWriteVF (i : Instr) : Prop := MayWriteReg i VF

/-- pc after the instruction at s.pc when it raises no fault (40_cycle.md R410, R411). -/
def pcAfter (i : Instr) (s : State) : Word :=
  let skip (c : Bool) : Word := if c then s.pc + 2 + 2 else s.pc + 2
  match i with
  | .jp nnn => nnn.setWidth 16
  | .call nnn => nnn.setWidth 16
  | .ret => (s.stack[s.sp.val - 1]?).getD 0
  | .jpV0 nnn => (s.readV 0).setWidth 16 + nnn.setWidth 16
  | .seImm x kk => skip (s.readV x == kk)
  | .sneImm x kk => skip (s.readV x != kk)
  | .seReg x y => skip (s.readV x == s.readV y)
  | .sneReg x y => skip (s.readV x != s.readV y)
  | .skp x => skip (s.keys.getLsbD ((s.readV x).toNat % 16))
  | .sknp x => skip (!s.keys.getLsbD ((s.readV x).toNat % 16))
  | .ldVxK _ => s.pc
  | .cls | .ldImm _ _ | .addImm _ _ | .ldReg _ _ | .orReg _ _ | .andReg _ _ | .xorReg _ _ | .addReg _ _
  | .subReg _ _ | .shr _ _ | .subnReg _ _ | .shl _ _ | .ldI _ | .rnd _ _ | .drw _ _ _ | .ldVxDT _ | .ldDTVx _
  | .ldSTVx _ | .addIVx _ | .ldFVx _ | .ldBVx _ | .storeRegs _ | .loadRegs _ => s.pc + 2

/-- What the instructions of a program can read: the state without the fields no instruction reads (10_state.md R138,
R155): sound, dirty, run, the fault registers, wait, wait_snap and load_status. -/
def programView (s : State) : State :=
  { s with
    sound := 0, dirty := false, run := .running, faultCause := 0, faultPc := 0, faultWord := 0, faultAddr := 0
    wait := none, waitSnap := 0, loadStatus := 0 }

end Sys2Proof.Machine
end

