-- ==== Sys2Proof/Certificates/Slice0/Obligations.lean ====
section
/-! DEFINITION. The statements for the provers. Each docstring names the rules of spec/ it formalises; where a clause
rests on a decision the spec marks as its own (92_eei_decisions.md D<n>) or on a log entry, it says so. -/

open Sys2Proof Sys2Proof.Machine

/-! ### Encoding (30_encoding.md) -/

/-- R301, R305: no operand bit of an encoding is dropped. -/
def Obligations.DecodeOfEncodeGivesTheInstructionBack : Prop :=
  ∀ i : Instr, i.WellFormed = true → decode (encode i) = .ok i

/-- R305: every legal word has one meaning, and that meaning encodes to the word (the y of 8xy6 and 8xyE included). -/
def Obligations.EncodeOfDecodeGivesTheWordBack : Prop :=
  ∀ (w : Word) (i : Instr), decode w = .ok i → i.WellFormed = true ∧ encode i = w

/-- R306: the family form of the decoder is the mask and match table of R305. -/
def Obligations.FamilyDecoderEqualsOpcodeTable : Prop :=
  ∀ w : Word, decodeByTable w = (match decode w with | .ok i => some i | .error _ => none)

/-- R305: 34 rows, and no word is taken by two of them. -/
def Obligations.OpcodeRowsDoNotOverlap : Prop :=
  opcodeTable.length = 34 ∧ ∀ w : Word, (opcodeTable.filter fun r => r.takes w).length ≤ 1

/-- R310 and R311 (the spec's derived list; the reading of "unrecognized" is its decision D14): which words are illegal,
family by family. -/
def Obligations.IllegalWordsAreThoseListed : Prop :=
  ∀ w : Word, (∃ r, decode w = .error r) ↔
    let k := w.toNat
    (k / 4096 = 0x0 ∧ k ≠ 0x00E0 ∧ k ≠ 0x00EE) ∨
    (k / 4096 = 0x5 ∧ k % 16 ≠ 0) ∨
    (k / 4096 = 0x8 ∧ ((8 ≤ k % 16 ∧ k % 16 ≤ 0xD) ∨ k % 16 = 0xF)) ∨
    (k / 4096 = 0x9 ∧ k % 16 ≠ 0) ∨
    (k / 4096 = 0xE ∧ k % 256 ≠ 0x9E ∧ k % 256 ≠ 0xA1) ∨
    (k / 4096 = 0xF ∧ k % 256 ≠ 0x07 ∧ k % 256 ≠ 0x0A ∧ k % 256 ≠ 0x15 ∧ k % 256 ≠ 0x18 ∧ k % 256 ≠ 0x1E ∧
      k % 256 ≠ 0x29 ∧ k % 256 ≠ 0x33 ∧ k % 256 ≠ 0x55 ∧ k % 256 ≠ 0x65)

/-- R305: words written out from the table, one at least of every family. -/
def Obligations.WrittenOutWordsDecode : Prop :=
  decode 0x00E0 = .ok .cls ∧ decode 0x00EE = .ok .ret ∧ decode 0x1250 = .ok (.jp 0x250) ∧
  decode 0x2456 = .ok (.call 0x456) ∧ decode 0x3310 = .ok (.seImm 3 0x10) ∧ decode 0x4311 = .ok (.sneImm 3 0x11) ∧
  decode 0x5120 = .ok (.seReg 1 2) ∧ decode 0x6A05 = .ok (.ldImm 0xA 0x05) ∧ decode 0x7103 = .ok (.addImm 1 0x03) ∧
  decode 0x8456 = .ok (.shr 4 5) ∧ decode 0x8127 = .ok (.subnReg 1 2) ∧ decode 0x9120 = .ok (.sneReg 1 2) ∧
  decode 0xA050 = .ok (.ldI 0x050) ∧ decode 0xB300 = .ok (.jpV0 0x300) ∧ decode 0xC30F = .ok (.rnd 3 0x0F) ∧
  decode 0xDAB2 = .ok (.drw 0xA 0xB 2) ∧ decode 0xE59E = .ok (.skp 5) ∧ decode 0xF733 = .ok (.ldBVx 7) ∧
  decode 0x5121 = .error .family5 ∧ decode 0x8008 = .error .family8

/-! ### The step (40_cycle.md) -/

/-- R400, R401, R410: when the big-endian word at pc decodes, the step runs that instruction, whether or not
the schedule names the CpuStep (log 3). The meaning is given the state with pc at the instruction and makes the default
advance itself (log 6). -/
def Obligations.StepRunsTheDecodedInstruction : Prop :=
  ∀ (s u : State) (i : Instr), CpuStepFrom s u → Fetching u → u.pc.toNat ≤ 4094 →
    decode (BitVec.ofNat 16 (256 * (u.byteAt u.pc.toNat).toNat + (u.byteAt (u.pc.toNat + 1)).toNat)) = .ok i →
    step s = exec i u

/-- R401, R221: a fetch that touches an address above 4095 faults, with fault_word 0. Fault entry is the spec's decision
D5, the code D6, the diagnostics D7. -/
def Obligations.FetchOutOfRangeFaults : Prop :=
  ∀ s u : State, CpuStepFrom s u → Fetching u → 4095 ≤ u.pc.toNat →
    ∃ t, step s = .next t ∧ Faulted u t 4 0 (firstBadAddr u.pc)

/-- R402, R1001: a fetched word that is no instruction faults with that word (entry D5, code D6). -/
def Obligations.IllegalWordFaults : Prop :=
  ∀ (s u : State) (w : Word) (r : DecodeReject), CpuStepFrom s u → Fetching u → u.pc.toNat ≤ 4094 →
    w.toNat = 256 * (u.byteAt u.pc.toNat).toNat + (u.byteAt (u.pc.toNat + 1)).toNat → decode w = .error r →
    ∃ t, step s = .next t ∧ Faulted u t 1 w 0

/-- R22, R1012 (decision D9): in Halted neither a CpuStep nor a TimerTick changes anything. That such an event is a step
without effect, not a stop, is the model's reading of 95_test_vectors.md C-4 and K-11 (log 4). -/
def Obligations.HaltedIgnoresStepsAndTicks : Prop :=
  ∀ s : State, s.run = .halted →
    (s.schedule = [] → step s = .next s) ∧
    (∀ rest, s.schedule = .cpuStep :: rest → step s = .next { s with schedule := rest }) ∧
    (∀ rest, s.schedule = .timerTick :: rest → step s = .next { s with schedule := rest })

/-- A machine of the spec has only next states: every fault of R1000 is a fault entry (R1010), every other event
completes (log 4, log 5). -/
def Obligations.EveryStepAnswersANextState : Prop :=
  ∀ s : State, ∃ t, step s = .next t

/-- R411: pc after every instruction that raises no fault, and pc while a key wait goes on. Which key SKP and SKNP test
is R906, the spec's decision D15 (log 11). -/
def Obligations.PcAfterEveryInstruction : Prop :=
  (∀ (i : Instr) (s t : State), s.run = .running → exec i s = .next t → t.run = .running → t.pc = pcAfter i s) ∧
  ∀ s u t : State, CpuStepFrom s u → u.wait ≠ none → step s = .next t → t.wait ≠ none → t.pc = u.pc

/-! ### Control flow (41_flow.md) -/

/-- R515. -/
def Obligations.JumpSetsPcOnly : Prop :=
  ∀ (nnn : BitVec 12) (s : State),
    decode (0x1#4 ++ nnn) = .ok (.jp nnn) ∧
    ∃ t, exec (.jp nnn) s = .next t ∧ t.pc.toNat = nnn.toNat ∧ t = { s with pc := t.pc } ∧ SameBytes s t

/-- R540: the sum is neither masked nor wrapped. -/
def Obligations.JumpWithOffsetAddsV0 : Prop :=
  ∀ (nnn : BitVec 12) (s : State),
    ∃ t, exec (.jpV0 nnn) s = .next t ∧ t.pc.toNat = (s.readV 0).toNat + nnn.toNat ∧ t.pc.toNat ≤ 0x10FE ∧
      t = { s with pc := t.pc } ∧ SameBytes s t

/-- R520: CALL pushes the address after itself, or overflows and writes nothing (entry D5, code D6). -/
def Obligations.CallPushesOrOverflows : Prop :=
  ∀ (nnn : BitVec 12) (s : State),
    (s.sp.val < 16 → ∃ t, exec (.call nnn) s = .next t ∧ t.pc.toNat = nnn.toNat ∧ t.sp.val = s.sp.val + 1 ∧
      (∀ j : Fin 16, t.stack[j.val] = if j.val = s.sp.val then s.pc + 2 else s.stack[j.val]) ∧
      t = { s with pc := t.pc, sp := t.sp, stack := t.stack } ∧ SameBytes s t) ∧
    (s.sp.val = 16 → ∃ t, exec (.call nnn) s = .next t ∧ Faulted s t 2 (0x2#4 ++ nnn) 0)

/-- R510: RET pops the last return address and leaves the slot as it is, or underflows and writes nothing (entry D5,
code D6). -/
def Obligations.ReturnPopsOrUnderflows : Prop :=
  ∀ s : State,
    (∀ j : Fin 16, s.sp.val = j.val + 1 → ∃ t, exec .ret s = .next t ∧ t.pc = s.stack[j.val] ∧ t.sp.val = j.val ∧
      t = { s with pc := t.pc, sp := t.sp } ∧ SameBytes s t) ∧
    (s.sp.val = 0 → ∃ t, exec .ret s = .next t ∧ Faulted s t 3 0x00EE 0)

/-- R510 and R520 together: a RET after a CALL, wherever it stands, continues after the CALL with sp as before. -/
def Obligations.CallThenReturnComesBack : Prop :=
  ∀ (nnn : BitVec 12) (s : State), s.sp.val < 16 →
    ∃ t, exec (.call nnn) s = .next t ∧
      ∀ p : Word, ∃ u, exec .ret { t with pc := p } = .next u ∧
        u = { s with pc := s.pc + 2, stack := u.stack } ∧
        ∀ j : Fin 16, j.val ≠ s.sp.val → u.stack[j.val] = s.stack[j.val]

/-- R525 and R530. -/
def Obligations.ImmediateSkips : Prop :=
  ∀ (x : Reg) (kk : Byte) (s : State),
    decode (0x3#4 ++ regBits x ++ kk) = .ok (.seImm x kk) ∧ decode (0x4#4 ++ regBits x ++ kk) = .ok (.sneImm x kk) ∧
    exec (.seImm x kk) s = .next { s with pc := if s.readV x = kk then s.pc + 4 else s.pc + 2 } ∧
    exec (.sneImm x kk) s = .next { s with pc := if s.readV x = kk then s.pc + 2 else s.pc + 4 }

/-- R535 and R538. That 5xyN and 9xyN with N other than 0 are illegal is the spec's decision D14 (R310; log 11). -/
def Obligations.RegisterSkips : Prop :=
  ∀ (x y : Reg) (s : State),
    decode (0x5#4 ++ regBits x ++ regBits y ++ 0x0#4) = .ok (.seReg x y) ∧
    decode (0x9#4 ++ regBits x ++ regBits y ++ 0x0#4) = .ok (.sneReg x y) ∧
    (∀ n : BitVec 4, n ≠ 0 → decode (0x5#4 ++ regBits x ++ regBits y ++ n) = .error .family5 ∧
      decode (0x9#4 ++ regBits x ++ regBits y ++ n) = .error .family9) ∧
    exec (.seReg x y) s = .next { s with pc := if s.readV x = s.readV y then s.pc + 4 else s.pc + 2 } ∧
    exec (.sneReg x y) s = .next { s with pc := if s.readV x = s.readV y then s.pc + 2 else s.pc + 4 }

/-! ### ALU (42_alu.md) -/

/-- R610, R615, R620: the loads and the immediate add, which write no flag. -/
def Obligations.LoadsAndImmediateAdd : Prop :=
  ∀ (x y : Reg) (kk : Byte) (s : State),
    decode (0x6#4 ++ regBits x ++ kk) = .ok (.ldImm x kk) ∧ decode (0x7#4 ++ regBits x ++ kk) = .ok (.addImm x kk) ∧
    decode (0x8#4 ++ regBits x ++ regBits y ++ 0x0#4) = .ok (.ldReg x y) ∧
    (∃ t, exec (.ldImm x kk) s = .next t ∧ WritesRegs s t fun r => if r = x then kk else s.readV r) ∧
    (∃ t, exec (.addImm x kk) s = .next t ∧ WritesRegs s t fun r =>
      if r = x then BitVec.ofNat 8 (((s.readV x).toNat + kk.toNat) % 256) else s.readV r) ∧
    (∃ t, exec (.ldReg x y) s = .next t ∧ WritesRegs s t fun r => if r = x then s.readV y else s.readV r)

/-- R625, R630, R635, bit by bit. That VF is not written as a flag is the spec's decision D11. -/
def Obligations.LogicWritesNoFlag : Prop :=
  ∀ (x y : Reg) (s : State),
    (∃ t, exec (.orReg x y) s = .next t ∧
      (∀ k, (t.readV x).getLsbD k = ((s.readV x).getLsbD k || (s.readV y).getLsbD k)) ∧
      WritesRegs s t fun r => if r = x then t.readV x else s.readV r) ∧
    (∃ t, exec (.andReg x y) s = .next t ∧
      (∀ k, (t.readV x).getLsbD k = ((s.readV x).getLsbD k && (s.readV y).getLsbD k)) ∧
      WritesRegs s t fun r => if r = x then t.readV x else s.readV r) ∧
    (∃ t, exec (.xorReg x y) s = .next t ∧
      (∀ k, (t.readV x).getLsbD k = ((s.readV x).getLsbD k != (s.readV y).getLsbD k)) ∧
      WritesRegs s t fun r => if r = x then t.readV x else s.readV r)

/-- R640: the sum modulo 256 and the carry. That the flag is written last, so that x = 15 keeps it, is the spec's
decision D10 (R421, R601; log 11). -/
def Obligations.AddWritesSumAndCarry : Prop :=
  ∀ (x y : Reg) (s : State),
    decode (0x8#4 ++ regBits x ++ regBits y ++ 0x4#4) = .ok (.addReg x y) ∧
    ∃ t, exec (.addReg x y) s = .next t ∧ WritesRegs s t fun r =>
      if r = VF then (if (s.readV x).toNat + (s.readV y).toNat > 255 then 1 else 0)
      else if r = x then BitVec.ofNat 8 (((s.readV x).toNat + (s.readV y).toNat) % 256)
      else s.readV r

/-- R645 and R655: the difference modulo 256 and the strict "no borrow" flag. That the flag is written last, so that x = 15
keeps it, is the spec's decision D10 (R421, R601; log 11). -/
def Obligations.SubtractionsWriteDifferenceAndNoBorrow : Prop :=
  ∀ (x y : Reg) (s : State),
    decode (0x8#4 ++ regBits x ++ regBits y ++ 0x5#4) = .ok (.subReg x y) ∧
    decode (0x8#4 ++ regBits x ++ regBits y ++ 0x7#4) = .ok (.subnReg x y) ∧
    (∃ t, exec (.subReg x y) s = .next t ∧ WritesRegs s t fun r =>
      if r = VF then (if (s.readV x).toNat > (s.readV y).toNat then 1 else 0)
      else if r = x then BitVec.ofNat 8 (((s.readV x).toNat + 256 - (s.readV y).toNat) % 256)
      else s.readV r) ∧
    (∃ t, exec (.subnReg x y) s = .next t ∧ WritesRegs s t fun r =>
      if r = VF then (if (s.readV y).toNat > (s.readV x).toNat then 1 else 0)
      else if r = x then BitVec.ofNat 8 (((s.readV y).toNat + 256 - (s.readV x).toNat) % 256)
      else s.readV r)

/-- R650 and R660: Vx is shifted, y is ignored, VF is the bit shifted out. That the flag is written last, so that
x = 15 keeps it, is the spec's decision D10 (R421, R601; log 11). -/
def Obligations.ShiftsWriteResultAndShiftedOutBit : Prop :=
  ∀ (x y : Reg) (s : State),
    decode (0x8#4 ++ regBits x ++ regBits y ++ 0x6#4) = .ok (.shr x y) ∧
    decode (0x8#4 ++ regBits x ++ regBits y ++ 0xE#4) = .ok (.shl x y) ∧
    (∃ t, exec (.shr x y) s = .next t ∧ WritesRegs s t fun r =>
      if r = VF then BitVec.ofNat 8 ((s.readV x).toNat % 2)
      else if r = x then BitVec.ofNat 8 ((s.readV x).toNat / 2)
      else s.readV r) ∧
    (∃ t, exec (.shl x y) s = .next t ∧ WritesRegs s t fun r =>
      if r = VF then BitVec.ofNat 8 ((s.readV x).toNat / 128)
      else if r = x then BitVec.ofNat 8 ((s.readV x).toNat * 2 % 256)
      else s.readV r)

/-- R670 (decision D17): one fresh draw, of which nothing is known, masked by kk. The draw is the model's free value, and
the count of draws is the model's own field (log 2). -/
def Obligations.RandomByteIsAMaskedDraw : Prop :=
  ∀ (x : Reg) (kk : Byte) (s : State),
    ∃ t, exec (.rnd x kk) s = .next t ∧
      (∀ r, t.readV r = if r = x then Config.freeDraw s.draws &&& kk else s.readV r) ∧
      (∀ k, kk.getLsbD k = false → (t.readV x).getLsbD k = false) ∧
      t.pc = s.pc + 2 ∧ t.draws = s.draws + 1 ∧ t = { s with v := t.v, pc := t.pc, draws := t.draws } ∧ SameBytes s t

/-! ### Index register and memory (43_index_memory.md) -/

/-- R700. -/
def Obligations.LoadIndexImmediate : Prop :=
  ∀ (nnn : BitVec 12) (s : State),
    decode (0xA#4 ++ nnn) = .ok (.ldI nnn) ∧
    ∃ t, exec (.ldI nnn) s = .next t ∧ t.i.toNat = nnn.toNat ∧ t.pc = s.pc + 2 ∧
      t = { s with i := t.i, pc := t.pc } ∧ SameBytes s t

/-- R710 (VF unchanged: decision D12) and R720 (no mask: decision D35). -/
def Obligations.IndexArithmetic : Prop :=
  ∀ (x : Reg) (s : State),
    (∃ t, exec (.addIVx x) s = .next t ∧ t.i.toNat = (s.i.toNat + (s.readV x).toNat) % 65536 ∧ t.pc = s.pc + 2 ∧
      t = { s with i := t.i, pc := t.pc } ∧ SameBytes s t) ∧
    (∃ t, exec (.ldFVx x) s = .next t ∧ t.i.toNat = 5 * (s.readV x).toNat ∧ t.pc = s.pc + 2 ∧
      t = { s with i := t.i, pc := t.pc } ∧ SameBytes s t)

/-- R730 in range: hundreds, tens and ones at I, I+1, I+2. -/
def Obligations.BcdStoresThreeDigits : Prop :=
  ∀ (x : Reg) (s : State), MemCanonical s → s.i.toNat + 2 ≤ 4095 →
    ∃ t, exec (.ldBVx x) s = .next t ∧ WritesBytes s t fun a =>
      if a = s.i.toNat then BitVec.ofNat 8 ((s.readV x).toNat / 100)
      else if a = s.i.toNat + 1 then BitVec.ofNat 8 ((s.readV x).toNat / 10 % 10)
      else if a = s.i.toNat + 2 then BitVec.ofNat 8 ((s.readV x).toNat % 10)
      else s.byteAt a

/-- R745 in range: V[j] at I + j for j up to x. That I is unchanged is the spec's decision D13. -/
def Obligations.StoreCopiesRegistersToMemory : Prop :=
  ∀ (x : Reg) (s : State), MemCanonical s → s.i.toNat + x.val ≤ 4095 →
    ∃ t, exec (.storeRegs x) s = .next t ∧
      (∀ j : Reg, j ≤ x → t.byteAt (s.i.toNat + j.val) = s.readV j) ∧
      WritesBytes s t fun a =>
        if s.i.toNat ≤ a ∧ a ≤ s.i.toNat + x.val then t.byteAt a else s.byteAt a

/-- R750 in range: the byte at I + j in V[j] for j up to x, VF included when x is 15. That I is unchanged is the spec's
decision D13. -/
def Obligations.LoadCopiesMemoryToRegisters : Prop :=
  ∀ (x : Reg) (s : State), s.i.toNat + x.val ≤ 4095 →
    ∃ t, exec (.loadRegs x) s = .next t ∧ WritesRegs s t fun r =>
      if r ≤ x then s.byteAt (s.i.toNat + r.val) else s.readV r

/-- R730, R745, R750, R810 out of range: nothing is written and the core stops with fault 4 (all or nothing: decision
D23; entry D5, code D6, address D7). -/
def Obligations.AccessOutOfRangeFaults : Prop :=
  ∀ (i : Instr) (s : State) (n : Nat), i.WellFormed = true → accessLength i = some n → 4095 < s.i.toNat + n - 1 →
    ∃ t, exec i s = .next t ∧ Faulted s t 4 (encode i) (firstBadAddr s.i)

/-- R211 (derived by the spec from R210 and R242): a fetch sees the bytes that a store just wrote, the lower address on
top. -/
def Obligations.FetchSeesStoredBytes : Prop :=
  ∀ s : State, MemCanonical s → s.i.toNat + 1 ≤ 4095 →
    ∃ t, exec (.storeRegs 1) s = .next t ∧ State.fetch { t with pc := s.i } = .ok (s.readV 0 ++ s.readV 1)

/-! ### Display (44_display.md) -/

/-- R800. -/
def Obligations.ClearScreen : Prop :=
  decode 0x00E0 = .ok .cls ∧
  ∀ s : State, ∃ t, exec .cls s = .next t ∧ (∀ (r : Fin 32) (c : Fin 64), cellAt t.fb r c = false) ∧ t.dirty = true ∧
    t.pc = s.pc + 2 ∧ t = { s with fb := t.fb, dirty := t.dirty, pc := t.pc } ∧ SameBytes s t

/-- R810, R812, R813, R814 in range, cell by cell: each cell is the old cell XOR the sprite bit that falls on it, VF is
1 exactly when a set bit fell on a set cell, dirty is set when a sprite byte is not 0 and otherwise kept. The bit order
of a row is the spec's decision D18, n = 0 its decision D21, dirty its decision D22. -/
def Obligations.DrawXorsTheSprite : Prop :=
  ∀ (x y : Reg) (n : Nat) (s : State), n ≤ 15 → (n = 0 ∨ s.i.toNat + n - 1 ≤ 4095) →
    let bit := spriteBit (spriteRows s n) (s.readV y).toNat (s.readV x).toNat
    ∃ t, exec (.drw x y n) s = .next t ∧
      (∀ r c, cellAt t.fb r c = (cellAt s.fb r c != bit r c)) ∧
      (t.readV VF = 1 ∨ t.readV VF = 0) ∧
      (t.readV VF = 1 ↔ ∃ r c, bit r c = true ∧ cellAt s.fb r c = true) ∧
      (∀ q, q ≠ VF → t.readV q = s.readV q) ∧
      (t.dirty = true ↔ s.dirty = true ∨ ∃ b ∈ spriteRows s n, b ≠ 0) ∧
      t.pc = s.pc + 2 ∧ t = { s with fb := t.fb, v := t.v, dirty := t.dirty, pc := t.pc } ∧ SameBytes s t

/-- R815 (derived by the spec), the part that holds: the same sprite drawn twice at the same origin restores the
framebuffer, and by R810 and R813 the second draw reports a collision exactly when a set sprite bit falls on a cell that
was 0 before the first draw. The origin stays the same only when neither x nor y is 15, since the first draw writes VF.
The rule's last sentence says more and is not true of R810 and R813 (log 14). -/
def Obligations.DrawingTwiceRestoresTheFramebuffer : Prop :=
  ∀ (x y : Reg) (n : Nat) (s : State), x ≠ VF → y ≠ VF → n ≤ 15 → (n = 0 ∨ s.i.toNat + n - 1 ≤ 4095) →
    ∃ t u, exec (.drw x y n) s = .next t ∧ exec (.drw x y n) t = .next u ∧ u.fb = s.fb ∧
      (u.readV VF = 1 ↔ ∃ r c, spriteBit (spriteRows s n) (s.readV y).toNat (s.readV x).toNat r c = true ∧
        cellAt s.fb r c = false)

/-- The last sentence of R815 as it is written: with a sprite byte other than 0 the second of two equal draws writes
VF = 1, on every framebuffer. It is expected to FAIL: when every cell under the sprite was 1 before the first draw, the
first draw clears them and the second hits no set cell (log 14). -/
def Obligations.SecondEqualDrawAlwaysCollides : Prop :=
  ∀ (x y : Reg) (n : Nat) (s t u : State), x ≠ VF → y ≠ VF → 0 < n → n ≤ 15 → s.i.toNat + n - 1 ≤ 4095 →
    (∃ b ∈ spriteRows s n, b ≠ 0) → exec (.drw x y n) s = .next t → exec (.drw x y n) t = .next u → u.readV VF = 1

/-! ### Keypad and timers (45_keypad_timer.md) -/

/-- R900, R905 with the key index of R906 (decision D15: the low nibble). -/
def Obligations.KeySkipsTestTheLowNibbleKey : Prop :=
  ∀ (x : Reg) (s : State),
    let down := s.keys.getLsbD ((s.readV x).toNat % 16)
    exec (.skp x) s = .next { s with pc := if down = true then s.pc + 4 else s.pc + 2 } ∧
    exec (.sknp x) s = .next { s with pc := if down = true then s.pc + 2 else s.pc + 4 }

/-- R920 and R940. -/
def Obligations.DelayTimerTransfers : Prop :=
  ∀ (x : Reg) (s : State),
    decode (0xF#4 ++ regBits x ++ 0x07#8) = .ok (.ldVxDT x) ∧ decode (0xF#4 ++ regBits x ++ 0x15#8) = .ok (.ldDTVx x) ∧
    (∃ t, exec (.ldVxDT x) s = .next t ∧ WritesRegs s t fun r => if r = x then s.delay else s.readV r) ∧
    (∃ t, exec (.ldDTVx x) s = .next t ∧ t.delay = s.readV x ∧ t.pc = s.pc + 2 ∧
      t = { s with delay := t.delay, pc := t.pc } ∧ SameBytes s t)

/-- R945, with the level sound_on of R951 (decision D28). -/
def Obligations.SoundTimerDrivesSoundOn : Prop :=
  ∀ (x : Reg) (s : State),
    ∃ t, exec (.ldSTVx x) s = .next t ∧ t.sound = s.readV x ∧ (t.soundOn = true ↔ (s.readV x).toNat ≠ 0) ∧
      t.pc = s.pc + 2 ∧ t = { s with sound := t.sound, pc := t.pc } ∧ SameBytes s t

/-- R930 and R931 (decision D16): LD Vx, K waits at its own address with the keys sampled, and a step that then sees a
key down that was up in the sample ends it with the least such key in Vx. -/
def Obligations.KeyWaitStoresTheLeastNewKey : Prop :=
  (∀ (x : Reg) (s : State), exec (.ldVxK x) s = .next { s with wait := some x, waitSnap := s.keys }) ∧
  ∀ (x : Reg) (s u : State) (k : Fin 16), CpuStepFrom s u → u.run = .running → u.wait = some x →
    u.keys.getLsbD k.val = true → u.waitSnap.getLsbD k.val = false →
    (∀ j : Fin 16, j < k → u.keys.getLsbD j.val = true → u.waitSnap.getLsbD j.val = true) →
    ∃ t, step s = .next t ∧ t.pc = u.pc + 2 ∧ (∀ r, t.readV r = if r = x then BitVec.ofNat 8 k.val else u.readV r) ∧
      t = { u with v := t.v, pc := t.pc, wait := none } ∧ SameBytes u t

/-- R931 (decision D16): without a new key the wait goes on, and only the sample is refreshed. -/
def Obligations.KeyWaitWithoutNewKeyGoesOn : Prop :=
  ∀ (x : Reg) (s u : State), CpuStepFrom s u → u.run = .running → u.wait = some x →
    (∀ k : Fin 16, u.keys.getLsbD k.val = true → u.waitSnap.getLsbD k.val = true) →
    step s = .next { u with waitSnap := u.keys }

/-- R950 (decision D27 for its place among the events): both timers go down by one and stop at 0, a key wait included. -/
def Obligations.TimerTickCountsBothTimersDown : Prop :=
  ∀ (s : State) (rest : List Event), s.schedule = .timerTick :: rest → s.run = .running →
    ∃ t, step s = .next t ∧ t.delay.toNat = s.delay.toNat - 1 ∧ t.sound.toNat = s.sound.toNat - 1 ∧
      t = { s with delay := t.delay, sound := t.sound, schedule := rest } ∧ SameBytes s t

/-- R952 (derived by the spec): after n ticks a timer reads max(0, initial - n). -/
def Obligations.TicksSaturateAtZero : Prop :=
  ∀ (n : Nat) (s : State), s.run = .running →
    (ticks n s).delay.toNat = s.delay.toNat - n ∧ (ticks n s).sound.toNat = s.sound.toNat - n ∧
      ticks n s = { s with delay := (ticks n s).delay, sound := (ticks n s).sound }

/-- R960 (decision D30) and R850 (decision D31): a KeySet changes one key, whatever the run state; a Present gives the
host the framebuffer as it stands and clears dirty. Nothing else changes. -/
def Obligations.KeySetAndPresentChangeOnlyTheirOwn : Prop :=
  (∀ (s : State) (k : Fin 16) (b : Bool) (rest : List Event), s.schedule = .keySet k b :: rest →
    ∃ t, step s = .next t ∧ (∀ j : Fin 16, t.keys.getLsbD j.val = if j = k then b else s.keys.getLsbD j.val) ∧
      t = { s with keys := t.keys, schedule := rest } ∧ SameBytes s t) ∧
  (∀ (s : State) (rest : List Event), s.schedule = .present :: rest →
    s.present.1 = s.fb ∧ step s = .next { s with dirty := false, schedule := rest })

/-- R170, whose ports are the spec's own names (decision D2): each level port is a view of the state. sound_on is decision
D28. -/
def Obligations.PortsShowTheState : Prop :=
  ∀ s : State, (∀ (r : Fin 32) (c : Fin 64), s.fbOut.getLsbD (r.val * 64 + c.val) = cellAt s.fb r c) ∧
    (s.runState = 1 ↔ s.run = .halted) ∧ (s.waiting = true ↔ s.wait ≠ none) ∧ (s.soundOn = true ↔ s.sound.toNat ≠ 0) ∧
    s.fbDirty = s.dirty ∧ s.faultPorts = (s.faultCause, s.faultPc, s.faultWord, s.faultAddr) ∧
    s.loadStatusPort = s.loadStatus

/-! ### Reset (70_reset_and_hazards.md) -/

/-- R230: what memory holds after a successful Reset. -/
def Obligations.ResetLoadsFontAndProgram : Prop :=
  ∀ (s : State) (rom : List Byte) (rest : List Event), s.schedule = .reset rom :: rest → rom.length ≤ 3584 →
    ∃ t, step s = .next t ∧
      (∀ a (_ : a < 80), t.byteAt a = s.font[a]) ∧
      (∀ a, 80 ≤ a → a < 0x200 → t.byteAt a = 0) ∧
      (∀ j (_ : j < rom.length), t.byteAt (0x200 + j) = rom[j]) ∧
      (∀ a, 0x200 + rom.length ≤ a → a < 4096 → t.byteAt a = 0)

/-- R180 and R1100 (decisions D4 and D32): every register after a successful Reset. That the font, the count of draws and
the schedule stay is the model's own (log 1, log 2, log 3). -/
def Obligations.ResetSetsEveryRegister : Prop :=
  ∀ (s : State) (rom : List Byte) (rest : List Event), s.schedule = .reset rom :: rest → rom.length ≤ 3584 →
    ∃ t, step s = .next t ∧ ResetValues t ∧ t.run = .running ∧ t.loadStatus = 0 ∧
      t.font = s.font ∧ t.draws = s.draws ∧ t.schedule = rest

/-- R1100 and R1101 (decision D32): the size check. A longer program leaves the core Halted with every other register at
its reset value, no fault on record and nothing but the font in memory; an empty one is accepted, and its first step
faults on the word 0 at 0x200 (entry D5, code D6). The font, the count of draws and the schedule stay (log 1, log 2,
log 3). -/
def Obligations.ResetChecksTheProgramSize : Prop :=
  (∀ (s : State) (rom : List Byte) (rest : List Event), s.schedule = .reset rom :: rest → 3584 < rom.length →
    ∃ t, step s = .next t ∧ ResetValues t ∧ t.run = .halted ∧ t.loadStatus = 5 ∧
      t.font = s.font ∧ t.draws = s.draws ∧ t.schedule = rest ∧
      ∀ a, t.byteAt a = if h : a < 80 then s.font[a] else 0) ∧
  (∀ (s : State) (rom : List Byte) (rest : List Event), s.schedule = .reset rom :: rest → rom.length ≤ 3584 →
    ∃ t, step s = .next t ∧ t.run = .running ∧ t.loadStatus = 0) ∧
  (∀ s : State, s.schedule = [.reset []] → ∃ t u, step s = .next t ∧ step t = .next u ∧ Faulted t u 1 0 0 ∧
    u.faultPc = 0x200)

/-! ### Faults and the run state (60_exceptions.md) -/

/-- R425, R1010, R1011 (decision D5): whatever CpuStep stops the core, nothing but the fault registers and the run state
differs from before it, and the code is one of the four. -/
def Obligations.FaultsArePrecise : Prop :=
  ∀ s u t : State, CpuStepFrom s u → u.run = .running → step s = .next t → t.run = .halted →
    ∃ (cause : BitVec 3) (w a : Word), Faulted u t cause w a ∧ 1 ≤ cause.toNat ∧ cause.toNat ≤ 4

/-- R426, R1000 (decisions D6, D8): a fetching step stops the core exactly when the fetch is out of range, or the word is
illegal, or the instruction's own check fails. -/
def Obligations.CoreStopsExactlyOnTheFourFaults : Prop :=
  ∀ s u : State, CpuStepFrom s u → Fetching u → ∃ t, step s = .next t ∧
    let w : Word := BitVec.ofNat 16 (256 * (u.byteAt u.pc.toNat).toNat + (u.byteAt (u.pc.toNat + 1)).toNat)
    (t.run = .halted ↔ 4095 ≤ u.pc.toNat ∨ (∃ r, decode w = .error r) ∨ ∃ i, decode w = .ok i ∧ OwnCheckFails i u)

/-- R140: Halted is left only through a Reset whose program fits, and Running is left only through a fault or a failed
load. -/
def Obligations.OnlyResetLeavesHalted : Prop :=
  ∀ s t : State, step s = .next t →
    (s.run = .halted → t.run = .running →
      ∃ rom rest, s.schedule = .reset rom :: rest ∧ rom.length ≤ 3584 ∧ t.loadStatus = 0) ∧
    (s.run = .running → t.run = .halted →
      (1 ≤ t.faultCause.toNat ∧ t.faultCause.toNat ≤ 4) ∨
      ∃ rom rest, s.schedule = .reset rom :: rest ∧ 3584 < rom.length)

/-! ### Whole-machine rules -/

/-- R101: an instruction not listed as a writer of VF leaves VF as it was. -/
def Obligations.OnlyListedInstructionsWriteVF : Prop :=
  ∀ (i : Instr) (s t : State), exec i s = .next t → ¬ MayWriteVF i → t.readV VF = s.readV VF

/-- R201 (derived by the spec): only LD B and LD [I] write memory. -/
def Obligations.OnlyStoresWriteMemory : Prop :=
  ∀ (i : Instr) (s t : State), exec i s = .next t → (∀ x, i ≠ .ldBVx x) → (∀ x, i ≠ .storeRegs x) →
    t.mem = s.mem ∧ SameBytes s t

/-- R102 (derived by the spec; D11 and D12 included), R110, R120, R121, R125, R130, R135, R138, R140, R150: each unit of
state other than memory and pc is written by its own instructions only, and the run state and the fault registers only
by an instruction whose own check fails. The font, the count of draws and the schedule are the model's own (log 1, log 2,
log 3). Memory is the subject of `OnlyStoresWriteMemory`, pc of `PcAfterEveryInstruction`. -/
def Obligations.EachUnitHasItsOwnWriters : Prop :=
  ∀ (i : Instr) (s t : State), exec i s = .next t →
    (∀ r, ¬ MayWriteReg i r → t.readV r = s.readV r) ∧
    ((∀ nnn, i ≠ .ldI nnn) → (∀ x, i ≠ .addIVx x) → (∀ x, i ≠ .ldFVx x) → t.i = s.i) ∧
    ((∀ nnn, i ≠ .call nnn) → t.stack = s.stack ∧ (i ≠ .ret → t.sp = s.sp)) ∧
    (i ≠ .cls → (∀ x y n, i ≠ .drw x y n) → t.fb = s.fb ∧ t.dirty = s.dirty) ∧
    ((∀ x, i ≠ .ldDTVx x) → t.delay = s.delay) ∧ ((∀ x, i ≠ .ldSTVx x) → t.sound = s.sound) ∧
    ((∀ x, i ≠ .ldVxK x) → t.wait = s.wait ∧ t.waitSnap = s.waitSnap) ∧
    (¬ OwnCheckFails i s → t.run = s.run ∧ t.faultCause = s.faultCause ∧ t.faultPc = s.faultPc ∧
      t.faultWord = s.faultWord ∧ t.faultAddr = s.faultAddr) ∧
    ((∀ x kk, i ≠ .rnd x kk) → t.draws = s.draws) ∧
    t.keys = s.keys ∧ t.loadStatus = s.loadStatus ∧ t.font = s.font ∧ t.schedule = s.schedule

/-- R138, R155: what an instruction does to the state a program can read depends on no state outside it: not on sound,
dirty, the run state, the fault registers, the key wait or load_status. For RND this compares two runs that get the same
draw, because equal counts of draws give equal draws: that is the model's choice (log 2), where R670 (decision D17) makes
the draw a free input. -/
def Obligations.ProgramsCannotReadHiddenState : Prop :=
  ∀ (i : Instr) (s s' : State), programView s = programView s' →
    ∃ t t', exec i s = .next t ∧ exec i s' = .next t' ∧ programView t = programView t'

/-! ### Invariants -/

/-- Every event keeps memory in its canonical form over 0..4095 (20_memory.md R200, R220; the form is the model's, log 12). -/
def Obligations.StepKeepsMemoryCanonical : Prop :=
  ∀ s t : State, MemCanonical s → step s = .next t → MemCanonical t

/-- R115 (derived by the spec): no event makes pc exceed 0x10FE, so pc never wraps. -/
def Obligations.StepKeepsPcBounded : Prop :=
  ∀ s t : State, PcBounded s → step s = .next t → PcBounded t

/-- R140, R141, R144, R1010, R1101: every event keeps the run state and the diagnostics in agreement. -/
def Obligations.StepKeepsRunStateConsistent : Prop :=
  ∀ s t : State, RunConsistent s → step s = .next t → RunConsistent t

/-- The invariants hold right after reset. -/
def Obligations.InvariantsHoldAtReset : Prop := Inv State.reset

/-- Every state reached by any order of events from a state with the invariants has them, and stands there Running or
with its fault on record (R20, R21). -/
def Obligations.InvariantsHoldWhereverEventsLead : Prop :=
  ∀ s t : State, Inv s → Reaches s t →
    Inv t ∧ (t.run = .halted → t.loadStatus = 5 ∨ (1 ≤ t.faultCause.toNat ∧ t.faultCause.toNat ≤ 4 ∧ t.faultPc = t.pc))
end

