-- ==== Sys2Proof/Laws/Decode.lean ====
section
/-! SUPPORT. The fields of a word as numbers, and the words of the encoder as numbers (30_encoding.md R301, R302). -/

namespace Sys2Proof

/-! ### Fields -/

theorem opField_eq (w : Word) : opField w = w.toNat / 4096 := by
  have h := w.isLt
  simp only [opField, BitVec.extractLsb'_toNat, Nat.shiftRight_eq_div_pow]
  omega

theorem xField_val (w : Word) : (xField w).val = w.toNat / 256 % 16 := by
  simp [xField, Nat.shiftRight_eq_div_pow]

theorem yField_val (w : Word) : (yField w).val = w.toNat / 16 % 16 := by
  simp [yField, Nat.shiftRight_eq_div_pow]

theorem nField_eq (w : Word) : nField w = w.toNat % 16 := by
  simp [nField, BitVec.extractLsb'_toNat]

theorem kkField_toNat (w : Word) : (kkField w).toNat = w.toNat % 256 := by
  simp [kkField, BitVec.extractLsb'_toNat]

theorem nnnField_toNat (w : Word) : (nnnField w).toNat = w.toNat % 4096 := by
  simp [nnnField, BitVec.extractLsb'_toNat]

/-! ### Words -/

/-- Joining two bit vectors puts the first above the second. -/
theorem append_toNat {m n : Nat} (a : BitVec m) (b : BitVec n) : (a ++ b).toNat = a.toNat * 2 ^ n + b.toNat := by
  have h := b.isLt
  rw [BitVec.toNat_append, Nat.shiftLeft_eq, Nat.mul_comm, Nat.two_pow_add_eq_or_of_lt h]

@[simp] theorem regBits_toNat (r : Reg) : (regBits r).toNat = r.val := by
  have h := r.isLt
  simp only [regBits, BitVec.toNat_ofNat]
  omega

/-- The number of a word of format NNN. -/
theorem wordNNN_toNat (op : BitVec 4) (nnn : BitVec 12) :
    BitVec.toNat (w := 16) (op ++ nnn) = op.toNat * 4096 + nnn.toNat := append_toNat op nnn

/-- The number of a word of format XKK or XNN. -/
theorem wordXKK_toNat (op : BitVec 4) (x : Reg) (kk : Byte) :
    BitVec.toNat (w := 16) (op ++ regBits x ++ kk) = op.toNat * 4096 + x.val * 256 + kk.toNat := by
  have h := append_toNat (op ++ regBits x) kk
  rw [append_toNat op (regBits x), regBits_toNat] at h
  refine h.trans ?_
  omega

/-- The number of a word of format XYN. -/
theorem wordXYN_toNat (op : BitVec 4) (x y : Reg) (n : BitVec 4) :
    BitVec.toNat (w := 16) (op ++ regBits x ++ regBits y ++ n) =
      op.toNat * 4096 + x.val * 256 + y.val * 16 + n.toNat := by
  have h := append_toNat (op ++ regBits x ++ regBits y) n
  have h' := append_toNat (op ++ regBits x) (regBits y)
  have h'' := append_toNat op (regBits x)
  rw [regBits_toNat] at h' h''
  omega

/-! ### The fields of a word are what it was made of -/

@[simp] theorem opField_wordNNN (op : BitVec 4) (nnn : BitVec 12) : opField (op ++ nnn) = op.toNat := by
  have h := nnn.isLt
  rw [opField_eq, wordNNN_toNat]
  omega

@[simp] theorem opField_wordXKK (op : BitVec 4) (x : Reg) (kk : Byte) : opField (op ++ regBits x ++ kk) = op.toNat := by
  have h := kk.isLt
  have hx := x.isLt
  rw [opField_eq, wordXKK_toNat]
  omega

@[simp] theorem opField_wordXYN (op : BitVec 4) (x y : Reg) (n : BitVec 4) :
    opField (op ++ regBits x ++ regBits y ++ n) = op.toNat := by
  have h := n.isLt
  have hx := x.isLt
  have hy := y.isLt
  rw [opField_eq, wordXYN_toNat]
  omega

@[simp] theorem nnnField_wordNNN (op : BitVec 4) (nnn : BitVec 12) : nnnField (op ++ nnn) = nnn := by
  have h := nnn.isLt
  apply BitVec.eq_of_toNat_eq
  rw [nnnField_toNat, wordNNN_toNat]
  omega

@[simp] theorem xField_wordXKK (op : BitVec 4) (x : Reg) (kk : Byte) : xField (op ++ regBits x ++ kk) = x := by
  have h := kk.isLt
  have hx := x.isLt
  apply Fin.ext
  rw [xField_val, wordXKK_toNat]
  omega

@[simp] theorem kkField_wordXKK (op : BitVec 4) (x : Reg) (kk : Byte) : kkField (op ++ regBits x ++ kk) = kk := by
  have h := kk.isLt
  apply BitVec.eq_of_toNat_eq
  rw [kkField_toNat, wordXKK_toNat]
  omega

@[simp] theorem xField_wordXYN (op : BitVec 4) (x y : Reg) (n : BitVec 4) :
    xField (op ++ regBits x ++ regBits y ++ n) = x := by
  have h := n.isLt
  have hx := x.isLt
  have hy := y.isLt
  apply Fin.ext
  rw [xField_val, wordXYN_toNat]
  omega

@[simp] theorem yField_wordXYN (op : BitVec 4) (x y : Reg) (n : BitVec 4) :
    yField (op ++ regBits x ++ regBits y ++ n) = y := by
  have h := n.isLt
  have hy := y.isLt
  apply Fin.ext
  rw [yField_val, wordXYN_toNat]
  omega

@[simp] theorem nField_wordXYN (op : BitVec 4) (x y : Reg) (n : BitVec 4) :
    nField (op ++ regBits x ++ regBits y ++ n) = n.toNat := by
  have h := n.isLt
  rw [nField_eq, wordXYN_toNat]
  omega

end Sys2Proof
end

