-- ==== Sys2Proof/Laws/State.lean ====
section
/-! SUPPORT. One lemma per field per named update of State, true by rfl; a later proof does not unfold an update. -/

namespace Sys2Proof.Machine


/-! ### writeV -/

@[simp] theorem State.writeV_v (s : State) (r : Reg) (b : Byte) : (s.writeV r b).v = s.v.set r.val b := rfl
@[simp] theorem State.writeV_i (s : State) (r : Reg) (b : Byte) : (s.writeV r b).i = s.i := rfl
@[simp] theorem State.writeV_pc (s : State) (r : Reg) (b : Byte) : (s.writeV r b).pc = s.pc := rfl
@[simp] theorem State.writeV_sp (s : State) (r : Reg) (b : Byte) : (s.writeV r b).sp = s.sp := rfl
@[simp] theorem State.writeV_stack (s : State) (r : Reg) (b : Byte) : (s.writeV r b).stack = s.stack := rfl
@[simp] theorem State.writeV_mem (s : State) (r : Reg) (b : Byte) : (s.writeV r b).mem = s.mem := rfl
@[simp] theorem State.writeV_fb (s : State) (r : Reg) (b : Byte) : (s.writeV r b).fb = s.fb := rfl
@[simp] theorem State.writeV_dirty (s : State) (r : Reg) (b : Byte) : (s.writeV r b).dirty = s.dirty := rfl
@[simp] theorem State.writeV_keys (s : State) (r : Reg) (b : Byte) : (s.writeV r b).keys = s.keys := rfl
@[simp] theorem State.writeV_delay (s : State) (r : Reg) (b : Byte) : (s.writeV r b).delay = s.delay := rfl
@[simp] theorem State.writeV_sound (s : State) (r : Reg) (b : Byte) : (s.writeV r b).sound = s.sound := rfl
@[simp] theorem State.writeV_run (s : State) (r : Reg) (b : Byte) : (s.writeV r b).run = s.run := rfl
@[simp] theorem State.writeV_faultCause (s : State) (r : Reg) (b : Byte) : (s.writeV r b).faultCause = s.faultCause := rfl
@[simp] theorem State.writeV_faultPc (s : State) (r : Reg) (b : Byte) : (s.writeV r b).faultPc = s.faultPc := rfl
@[simp] theorem State.writeV_faultWord (s : State) (r : Reg) (b : Byte) : (s.writeV r b).faultWord = s.faultWord := rfl
@[simp] theorem State.writeV_faultAddr (s : State) (r : Reg) (b : Byte) : (s.writeV r b).faultAddr = s.faultAddr := rfl
@[simp] theorem State.writeV_wait (s : State) (r : Reg) (b : Byte) : (s.writeV r b).wait = s.wait := rfl
@[simp] theorem State.writeV_waitSnap (s : State) (r : Reg) (b : Byte) : (s.writeV r b).waitSnap = s.waitSnap := rfl
@[simp] theorem State.writeV_loadStatus (s : State) (r : Reg) (b : Byte) : (s.writeV r b).loadStatus = s.loadStatus := rfl
@[simp] theorem State.writeV_font (s : State) (r : Reg) (b : Byte) : (s.writeV r b).font = s.font := rfl
@[simp] theorem State.writeV_draws (s : State) (r : Reg) (b : Byte) : (s.writeV r b).draws = s.draws := rfl
@[simp] theorem State.writeV_schedule (s : State) (r : Reg) (b : Byte) : (s.writeV r b).schedule = s.schedule := rfl

/-! ### advance -/

@[simp] theorem State.advance_v (s : State) : (s.advance).v = s.v := rfl
@[simp] theorem State.advance_i (s : State) : (s.advance).i = s.i := rfl
@[simp] theorem State.advance_pc (s : State) : (s.advance).pc = s.pc + 2 := rfl
@[simp] theorem State.advance_sp (s : State) : (s.advance).sp = s.sp := rfl
@[simp] theorem State.advance_stack (s : State) : (s.advance).stack = s.stack := rfl
@[simp] theorem State.advance_mem (s : State) : (s.advance).mem = s.mem := rfl
@[simp] theorem State.advance_fb (s : State) : (s.advance).fb = s.fb := rfl
@[simp] theorem State.advance_dirty (s : State) : (s.advance).dirty = s.dirty := rfl
@[simp] theorem State.advance_keys (s : State) : (s.advance).keys = s.keys := rfl
@[simp] theorem State.advance_delay (s : State) : (s.advance).delay = s.delay := rfl
@[simp] theorem State.advance_sound (s : State) : (s.advance).sound = s.sound := rfl
@[simp] theorem State.advance_run (s : State) : (s.advance).run = s.run := rfl
@[simp] theorem State.advance_faultCause (s : State) : (s.advance).faultCause = s.faultCause := rfl
@[simp] theorem State.advance_faultPc (s : State) : (s.advance).faultPc = s.faultPc := rfl
@[simp] theorem State.advance_faultWord (s : State) : (s.advance).faultWord = s.faultWord := rfl
@[simp] theorem State.advance_faultAddr (s : State) : (s.advance).faultAddr = s.faultAddr := rfl
@[simp] theorem State.advance_wait (s : State) : (s.advance).wait = s.wait := rfl
@[simp] theorem State.advance_waitSnap (s : State) : (s.advance).waitSnap = s.waitSnap := rfl
@[simp] theorem State.advance_loadStatus (s : State) : (s.advance).loadStatus = s.loadStatus := rfl
@[simp] theorem State.advance_font (s : State) : (s.advance).font = s.font := rfl
@[simp] theorem State.advance_draws (s : State) : (s.advance).draws = s.draws := rfl
@[simp] theorem State.advance_schedule (s : State) : (s.advance).schedule = s.schedule := rfl

/-! ### jumpTo -/

@[simp] theorem State.jumpTo_v (s : State) (a : Word) : (s.jumpTo a).v = s.v := rfl
@[simp] theorem State.jumpTo_i (s : State) (a : Word) : (s.jumpTo a).i = s.i := rfl
@[simp] theorem State.jumpTo_pc (s : State) (a : Word) : (s.jumpTo a).pc = a := rfl
@[simp] theorem State.jumpTo_sp (s : State) (a : Word) : (s.jumpTo a).sp = s.sp := rfl
@[simp] theorem State.jumpTo_stack (s : State) (a : Word) : (s.jumpTo a).stack = s.stack := rfl
@[simp] theorem State.jumpTo_mem (s : State) (a : Word) : (s.jumpTo a).mem = s.mem := rfl
@[simp] theorem State.jumpTo_fb (s : State) (a : Word) : (s.jumpTo a).fb = s.fb := rfl
@[simp] theorem State.jumpTo_dirty (s : State) (a : Word) : (s.jumpTo a).dirty = s.dirty := rfl
@[simp] theorem State.jumpTo_keys (s : State) (a : Word) : (s.jumpTo a).keys = s.keys := rfl
@[simp] theorem State.jumpTo_delay (s : State) (a : Word) : (s.jumpTo a).delay = s.delay := rfl
@[simp] theorem State.jumpTo_sound (s : State) (a : Word) : (s.jumpTo a).sound = s.sound := rfl
@[simp] theorem State.jumpTo_run (s : State) (a : Word) : (s.jumpTo a).run = s.run := rfl
@[simp] theorem State.jumpTo_faultCause (s : State) (a : Word) : (s.jumpTo a).faultCause = s.faultCause := rfl
@[simp] theorem State.jumpTo_faultPc (s : State) (a : Word) : (s.jumpTo a).faultPc = s.faultPc := rfl
@[simp] theorem State.jumpTo_faultWord (s : State) (a : Word) : (s.jumpTo a).faultWord = s.faultWord := rfl
@[simp] theorem State.jumpTo_faultAddr (s : State) (a : Word) : (s.jumpTo a).faultAddr = s.faultAddr := rfl
@[simp] theorem State.jumpTo_wait (s : State) (a : Word) : (s.jumpTo a).wait = s.wait := rfl
@[simp] theorem State.jumpTo_waitSnap (s : State) (a : Word) : (s.jumpTo a).waitSnap = s.waitSnap := rfl
@[simp] theorem State.jumpTo_loadStatus (s : State) (a : Word) : (s.jumpTo a).loadStatus = s.loadStatus := rfl
@[simp] theorem State.jumpTo_font (s : State) (a : Word) : (s.jumpTo a).font = s.font := rfl
@[simp] theorem State.jumpTo_draws (s : State) (a : Word) : (s.jumpTo a).draws = s.draws := rfl
@[simp] theorem State.jumpTo_schedule (s : State) (a : Word) : (s.jumpTo a).schedule = s.schedule := rfl

/-! ### takeFault -/

@[simp] theorem State.takeFault_v (s : State) (k : FaultKind) (w : Word) (a : Nat) : (s.takeFault k w a).v = s.v := rfl
@[simp] theorem State.takeFault_i (s : State) (k : FaultKind) (w : Word) (a : Nat) : (s.takeFault k w a).i = s.i := rfl
@[simp] theorem State.takeFault_pc (s : State) (k : FaultKind) (w : Word) (a : Nat) : (s.takeFault k w a).pc = s.pc := rfl
@[simp] theorem State.takeFault_sp (s : State) (k : FaultKind) (w : Word) (a : Nat) : (s.takeFault k w a).sp = s.sp := rfl
@[simp] theorem State.takeFault_stack (s : State) (k : FaultKind) (w : Word) (a : Nat) : (s.takeFault k w a).stack = s.stack := rfl
@[simp] theorem State.takeFault_mem (s : State) (k : FaultKind) (w : Word) (a : Nat) : (s.takeFault k w a).mem = s.mem := rfl
@[simp] theorem State.takeFault_fb (s : State) (k : FaultKind) (w : Word) (a : Nat) : (s.takeFault k w a).fb = s.fb := rfl
@[simp] theorem State.takeFault_dirty (s : State) (k : FaultKind) (w : Word) (a : Nat) : (s.takeFault k w a).dirty = s.dirty := rfl
@[simp] theorem State.takeFault_keys (s : State) (k : FaultKind) (w : Word) (a : Nat) : (s.takeFault k w a).keys = s.keys := rfl
@[simp] theorem State.takeFault_delay (s : State) (k : FaultKind) (w : Word) (a : Nat) : (s.takeFault k w a).delay = s.delay := rfl
@[simp] theorem State.takeFault_sound (s : State) (k : FaultKind) (w : Word) (a : Nat) : (s.takeFault k w a).sound = s.sound := rfl
@[simp] theorem State.takeFault_run (s : State) (k : FaultKind) (w : Word) (a : Nat) : (s.takeFault k w a).run = .halted := rfl
@[simp] theorem State.takeFault_faultCause (s : State) (k : FaultKind) (w : Word) (a : Nat) : (s.takeFault k w a).faultCause = k.code := rfl
@[simp] theorem State.takeFault_faultPc (s : State) (k : FaultKind) (w : Word) (a : Nat) : (s.takeFault k w a).faultPc = s.pc := rfl
@[simp] theorem State.takeFault_faultWord (s : State) (k : FaultKind) (w : Word) (a : Nat) : (s.takeFault k w a).faultWord = w := rfl
@[simp] theorem State.takeFault_faultAddr (s : State) (k : FaultKind) (w : Word) (a : Nat) : (s.takeFault k w a).faultAddr = BitVec.ofNat 16 a := rfl
@[simp] theorem State.takeFault_wait (s : State) (k : FaultKind) (w : Word) (a : Nat) : (s.takeFault k w a).wait = s.wait := rfl
@[simp] theorem State.takeFault_waitSnap (s : State) (k : FaultKind) (w : Word) (a : Nat) : (s.takeFault k w a).waitSnap = s.waitSnap := rfl
@[simp] theorem State.takeFault_loadStatus (s : State) (k : FaultKind) (w : Word) (a : Nat) : (s.takeFault k w a).loadStatus = s.loadStatus := rfl
@[simp] theorem State.takeFault_font (s : State) (k : FaultKind) (w : Word) (a : Nat) : (s.takeFault k w a).font = s.font := rfl
@[simp] theorem State.takeFault_draws (s : State) (k : FaultKind) (w : Word) (a : Nat) : (s.takeFault k w a).draws = s.draws := rfl
@[simp] theorem State.takeFault_schedule (s : State) (k : FaultKind) (w : Word) (a : Nat) : (s.takeFault k w a).schedule = s.schedule := rfl

/-! ### writeRegs -/

@[simp] theorem State.writeRegs_i (s : State) (bs : List Byte) : (s.writeRegs bs).i = s.i := by
  dsimp only [State.writeRegs]
@[simp] theorem State.writeRegs_pc (s : State) (bs : List Byte) : (s.writeRegs bs).pc = s.pc := by
  dsimp only [State.writeRegs]
@[simp] theorem State.writeRegs_sp (s : State) (bs : List Byte) : (s.writeRegs bs).sp = s.sp := by
  dsimp only [State.writeRegs]
@[simp] theorem State.writeRegs_stack (s : State) (bs : List Byte) : (s.writeRegs bs).stack = s.stack := by
  dsimp only [State.writeRegs]
@[simp] theorem State.writeRegs_mem (s : State) (bs : List Byte) : (s.writeRegs bs).mem = s.mem := by
  dsimp only [State.writeRegs]
@[simp] theorem State.writeRegs_fb (s : State) (bs : List Byte) : (s.writeRegs bs).fb = s.fb := by
  dsimp only [State.writeRegs]
@[simp] theorem State.writeRegs_dirty (s : State) (bs : List Byte) : (s.writeRegs bs).dirty = s.dirty := by
  dsimp only [State.writeRegs]
@[simp] theorem State.writeRegs_keys (s : State) (bs : List Byte) : (s.writeRegs bs).keys = s.keys := by
  dsimp only [State.writeRegs]
@[simp] theorem State.writeRegs_delay (s : State) (bs : List Byte) : (s.writeRegs bs).delay = s.delay := by
  dsimp only [State.writeRegs]
@[simp] theorem State.writeRegs_sound (s : State) (bs : List Byte) : (s.writeRegs bs).sound = s.sound := by
  dsimp only [State.writeRegs]
@[simp] theorem State.writeRegs_run (s : State) (bs : List Byte) : (s.writeRegs bs).run = s.run := by
  dsimp only [State.writeRegs]
@[simp] theorem State.writeRegs_faultCause (s : State) (bs : List Byte) : (s.writeRegs bs).faultCause = s.faultCause := by
  dsimp only [State.writeRegs]
@[simp] theorem State.writeRegs_faultPc (s : State) (bs : List Byte) : (s.writeRegs bs).faultPc = s.faultPc := by
  dsimp only [State.writeRegs]
@[simp] theorem State.writeRegs_faultWord (s : State) (bs : List Byte) : (s.writeRegs bs).faultWord = s.faultWord := by
  dsimp only [State.writeRegs]
@[simp] theorem State.writeRegs_faultAddr (s : State) (bs : List Byte) : (s.writeRegs bs).faultAddr = s.faultAddr := by
  dsimp only [State.writeRegs]
@[simp] theorem State.writeRegs_wait (s : State) (bs : List Byte) : (s.writeRegs bs).wait = s.wait := by
  dsimp only [State.writeRegs]
@[simp] theorem State.writeRegs_waitSnap (s : State) (bs : List Byte) : (s.writeRegs bs).waitSnap = s.waitSnap := by
  dsimp only [State.writeRegs]
@[simp] theorem State.writeRegs_loadStatus (s : State) (bs : List Byte) : (s.writeRegs bs).loadStatus = s.loadStatus := by
  dsimp only [State.writeRegs]
@[simp] theorem State.writeRegs_font (s : State) (bs : List Byte) : (s.writeRegs bs).font = s.font := by
  dsimp only [State.writeRegs]
@[simp] theorem State.writeRegs_draws (s : State) (bs : List Byte) : (s.writeRegs bs).draws = s.draws := by
  dsimp only [State.writeRegs]
@[simp] theorem State.writeRegs_schedule (s : State) (bs : List Byte) : (s.writeRegs bs).schedule = s.schedule := by
  dsimp only [State.writeRegs]

/-! ### keySet -/

@[simp] theorem State.keySet_v (s : State) (k : Fin 16) (b : Bool) : (s.keySet k b).v = s.v := rfl
@[simp] theorem State.keySet_i (s : State) (k : Fin 16) (b : Bool) : (s.keySet k b).i = s.i := rfl
@[simp] theorem State.keySet_pc (s : State) (k : Fin 16) (b : Bool) : (s.keySet k b).pc = s.pc := rfl
@[simp] theorem State.keySet_sp (s : State) (k : Fin 16) (b : Bool) : (s.keySet k b).sp = s.sp := rfl
@[simp] theorem State.keySet_stack (s : State) (k : Fin 16) (b : Bool) : (s.keySet k b).stack = s.stack := rfl
@[simp] theorem State.keySet_mem (s : State) (k : Fin 16) (b : Bool) : (s.keySet k b).mem = s.mem := rfl
@[simp] theorem State.keySet_fb (s : State) (k : Fin 16) (b : Bool) : (s.keySet k b).fb = s.fb := rfl
@[simp] theorem State.keySet_dirty (s : State) (k : Fin 16) (b : Bool) : (s.keySet k b).dirty = s.dirty := rfl
@[simp] theorem State.keySet_keys (s : State) (k : Fin 16) (b : Bool) : (s.keySet k b).keys = setKey s.keys k b := rfl
@[simp] theorem State.keySet_delay (s : State) (k : Fin 16) (b : Bool) : (s.keySet k b).delay = s.delay := rfl
@[simp] theorem State.keySet_sound (s : State) (k : Fin 16) (b : Bool) : (s.keySet k b).sound = s.sound := rfl
@[simp] theorem State.keySet_run (s : State) (k : Fin 16) (b : Bool) : (s.keySet k b).run = s.run := rfl
@[simp] theorem State.keySet_faultCause (s : State) (k : Fin 16) (b : Bool) : (s.keySet k b).faultCause = s.faultCause := rfl
@[simp] theorem State.keySet_faultPc (s : State) (k : Fin 16) (b : Bool) : (s.keySet k b).faultPc = s.faultPc := rfl
@[simp] theorem State.keySet_faultWord (s : State) (k : Fin 16) (b : Bool) : (s.keySet k b).faultWord = s.faultWord := rfl
@[simp] theorem State.keySet_faultAddr (s : State) (k : Fin 16) (b : Bool) : (s.keySet k b).faultAddr = s.faultAddr := rfl
@[simp] theorem State.keySet_wait (s : State) (k : Fin 16) (b : Bool) : (s.keySet k b).wait = s.wait := rfl
@[simp] theorem State.keySet_waitSnap (s : State) (k : Fin 16) (b : Bool) : (s.keySet k b).waitSnap = s.waitSnap := rfl
@[simp] theorem State.keySet_loadStatus (s : State) (k : Fin 16) (b : Bool) : (s.keySet k b).loadStatus = s.loadStatus := rfl
@[simp] theorem State.keySet_font (s : State) (k : Fin 16) (b : Bool) : (s.keySet k b).font = s.font := rfl
@[simp] theorem State.keySet_draws (s : State) (k : Fin 16) (b : Bool) : (s.keySet k b).draws = s.draws := rfl
@[simp] theorem State.keySet_schedule (s : State) (k : Fin 16) (b : Bool) : (s.keySet k b).schedule = s.schedule := rfl

/-! ### writeFlag -/

@[simp] theorem State.writeFlag_v (s : State) (f : Bool) : (s.writeFlag f).v = s.v.set 15 (flagByte f) := rfl
@[simp] theorem State.writeFlag_i (s : State) (f : Bool) : (s.writeFlag f).i = s.i := rfl
@[simp] theorem State.writeFlag_pc (s : State) (f : Bool) : (s.writeFlag f).pc = s.pc := rfl
@[simp] theorem State.writeFlag_sp (s : State) (f : Bool) : (s.writeFlag f).sp = s.sp := rfl
@[simp] theorem State.writeFlag_stack (s : State) (f : Bool) : (s.writeFlag f).stack = s.stack := rfl
@[simp] theorem State.writeFlag_mem (s : State) (f : Bool) : (s.writeFlag f).mem = s.mem := rfl
@[simp] theorem State.writeFlag_fb (s : State) (f : Bool) : (s.writeFlag f).fb = s.fb := rfl
@[simp] theorem State.writeFlag_dirty (s : State) (f : Bool) : (s.writeFlag f).dirty = s.dirty := rfl
@[simp] theorem State.writeFlag_keys (s : State) (f : Bool) : (s.writeFlag f).keys = s.keys := rfl
@[simp] theorem State.writeFlag_delay (s : State) (f : Bool) : (s.writeFlag f).delay = s.delay := rfl
@[simp] theorem State.writeFlag_sound (s : State) (f : Bool) : (s.writeFlag f).sound = s.sound := rfl
@[simp] theorem State.writeFlag_run (s : State) (f : Bool) : (s.writeFlag f).run = s.run := rfl
@[simp] theorem State.writeFlag_faultCause (s : State) (f : Bool) : (s.writeFlag f).faultCause = s.faultCause := rfl
@[simp] theorem State.writeFlag_faultPc (s : State) (f : Bool) : (s.writeFlag f).faultPc = s.faultPc := rfl
@[simp] theorem State.writeFlag_faultWord (s : State) (f : Bool) : (s.writeFlag f).faultWord = s.faultWord := rfl
@[simp] theorem State.writeFlag_faultAddr (s : State) (f : Bool) : (s.writeFlag f).faultAddr = s.faultAddr := rfl
@[simp] theorem State.writeFlag_wait (s : State) (f : Bool) : (s.writeFlag f).wait = s.wait := rfl
@[simp] theorem State.writeFlag_waitSnap (s : State) (f : Bool) : (s.writeFlag f).waitSnap = s.waitSnap := rfl
@[simp] theorem State.writeFlag_loadStatus (s : State) (f : Bool) : (s.writeFlag f).loadStatus = s.loadStatus := rfl
@[simp] theorem State.writeFlag_font (s : State) (f : Bool) : (s.writeFlag f).font = s.font := rfl
@[simp] theorem State.writeFlag_draws (s : State) (f : Bool) : (s.writeFlag f).draws = s.draws := rfl
@[simp] theorem State.writeFlag_schedule (s : State) (f : Bool) : (s.writeFlag f).schedule = s.schedule := rfl

/-! ### writeResult -/

@[simp] theorem State.writeResult_v (s : State) (x : Reg) (b : Byte) (f : Bool) : (s.writeResult x b f).v = (s.v.set x.val b).set 15 (flagByte f) := rfl
@[simp] theorem State.writeResult_i (s : State) (x : Reg) (b : Byte) (f : Bool) : (s.writeResult x b f).i = s.i := rfl
@[simp] theorem State.writeResult_pc (s : State) (x : Reg) (b : Byte) (f : Bool) : (s.writeResult x b f).pc = s.pc := rfl
@[simp] theorem State.writeResult_sp (s : State) (x : Reg) (b : Byte) (f : Bool) : (s.writeResult x b f).sp = s.sp := rfl
@[simp] theorem State.writeResult_stack (s : State) (x : Reg) (b : Byte) (f : Bool) : (s.writeResult x b f).stack = s.stack := rfl
@[simp] theorem State.writeResult_mem (s : State) (x : Reg) (b : Byte) (f : Bool) : (s.writeResult x b f).mem = s.mem := rfl
@[simp] theorem State.writeResult_fb (s : State) (x : Reg) (b : Byte) (f : Bool) : (s.writeResult x b f).fb = s.fb := rfl
@[simp] theorem State.writeResult_dirty (s : State) (x : Reg) (b : Byte) (f : Bool) : (s.writeResult x b f).dirty = s.dirty := rfl
@[simp] theorem State.writeResult_keys (s : State) (x : Reg) (b : Byte) (f : Bool) : (s.writeResult x b f).keys = s.keys := rfl
@[simp] theorem State.writeResult_delay (s : State) (x : Reg) (b : Byte) (f : Bool) : (s.writeResult x b f).delay = s.delay := rfl
@[simp] theorem State.writeResult_sound (s : State) (x : Reg) (b : Byte) (f : Bool) : (s.writeResult x b f).sound = s.sound := rfl
@[simp] theorem State.writeResult_run (s : State) (x : Reg) (b : Byte) (f : Bool) : (s.writeResult x b f).run = s.run := rfl
@[simp] theorem State.writeResult_faultCause (s : State) (x : Reg) (b : Byte) (f : Bool) : (s.writeResult x b f).faultCause = s.faultCause := rfl
@[simp] theorem State.writeResult_faultPc (s : State) (x : Reg) (b : Byte) (f : Bool) : (s.writeResult x b f).faultPc = s.faultPc := rfl
@[simp] theorem State.writeResult_faultWord (s : State) (x : Reg) (b : Byte) (f : Bool) : (s.writeResult x b f).faultWord = s.faultWord := rfl
@[simp] theorem State.writeResult_faultAddr (s : State) (x : Reg) (b : Byte) (f : Bool) : (s.writeResult x b f).faultAddr = s.faultAddr := rfl
@[simp] theorem State.writeResult_wait (s : State) (x : Reg) (b : Byte) (f : Bool) : (s.writeResult x b f).wait = s.wait := rfl
@[simp] theorem State.writeResult_waitSnap (s : State) (x : Reg) (b : Byte) (f : Bool) : (s.writeResult x b f).waitSnap = s.waitSnap := rfl
@[simp] theorem State.writeResult_loadStatus (s : State) (x : Reg) (b : Byte) (f : Bool) : (s.writeResult x b f).loadStatus = s.loadStatus := rfl
@[simp] theorem State.writeResult_font (s : State) (x : Reg) (b : Byte) (f : Bool) : (s.writeResult x b f).font = s.font := rfl
@[simp] theorem State.writeResult_draws (s : State) (x : Reg) (b : Byte) (f : Bool) : (s.writeResult x b f).draws = s.draws := rfl
@[simp] theorem State.writeResult_schedule (s : State) (x : Reg) (b : Byte) (f : Bool) : (s.writeResult x b f).schedule = s.schedule := rfl

/-! ### writeMaskedDraw -/

@[simp] theorem State.writeMaskedDraw_v (s : State) (x : Reg) (kk r : Byte) : (s.writeMaskedDraw x kk r).v = s.v.set x.val (r &&& kk) := rfl
@[simp] theorem State.writeMaskedDraw_i (s : State) (x : Reg) (kk r : Byte) : (s.writeMaskedDraw x kk r).i = s.i := rfl
@[simp] theorem State.writeMaskedDraw_pc (s : State) (x : Reg) (kk r : Byte) : (s.writeMaskedDraw x kk r).pc = s.pc := rfl
@[simp] theorem State.writeMaskedDraw_sp (s : State) (x : Reg) (kk r : Byte) : (s.writeMaskedDraw x kk r).sp = s.sp := rfl
@[simp] theorem State.writeMaskedDraw_stack (s : State) (x : Reg) (kk r : Byte) : (s.writeMaskedDraw x kk r).stack = s.stack := rfl
@[simp] theorem State.writeMaskedDraw_mem (s : State) (x : Reg) (kk r : Byte) : (s.writeMaskedDraw x kk r).mem = s.mem := rfl
@[simp] theorem State.writeMaskedDraw_fb (s : State) (x : Reg) (kk r : Byte) : (s.writeMaskedDraw x kk r).fb = s.fb := rfl
@[simp] theorem State.writeMaskedDraw_dirty (s : State) (x : Reg) (kk r : Byte) : (s.writeMaskedDraw x kk r).dirty = s.dirty := rfl
@[simp] theorem State.writeMaskedDraw_keys (s : State) (x : Reg) (kk r : Byte) : (s.writeMaskedDraw x kk r).keys = s.keys := rfl
@[simp] theorem State.writeMaskedDraw_delay (s : State) (x : Reg) (kk r : Byte) : (s.writeMaskedDraw x kk r).delay = s.delay := rfl
@[simp] theorem State.writeMaskedDraw_sound (s : State) (x : Reg) (kk r : Byte) : (s.writeMaskedDraw x kk r).sound = s.sound := rfl
@[simp] theorem State.writeMaskedDraw_run (s : State) (x : Reg) (kk r : Byte) : (s.writeMaskedDraw x kk r).run = s.run := rfl
@[simp] theorem State.writeMaskedDraw_faultCause (s : State) (x : Reg) (kk r : Byte) : (s.writeMaskedDraw x kk r).faultCause = s.faultCause := rfl
@[simp] theorem State.writeMaskedDraw_faultPc (s : State) (x : Reg) (kk r : Byte) : (s.writeMaskedDraw x kk r).faultPc = s.faultPc := rfl
@[simp] theorem State.writeMaskedDraw_faultWord (s : State) (x : Reg) (kk r : Byte) : (s.writeMaskedDraw x kk r).faultWord = s.faultWord := rfl
@[simp] theorem State.writeMaskedDraw_faultAddr (s : State) (x : Reg) (kk r : Byte) : (s.writeMaskedDraw x kk r).faultAddr = s.faultAddr := rfl
@[simp] theorem State.writeMaskedDraw_wait (s : State) (x : Reg) (kk r : Byte) : (s.writeMaskedDraw x kk r).wait = s.wait := rfl
@[simp] theorem State.writeMaskedDraw_waitSnap (s : State) (x : Reg) (kk r : Byte) : (s.writeMaskedDraw x kk r).waitSnap = s.waitSnap := rfl
@[simp] theorem State.writeMaskedDraw_loadStatus (s : State) (x : Reg) (kk r : Byte) : (s.writeMaskedDraw x kk r).loadStatus = s.loadStatus := rfl
@[simp] theorem State.writeMaskedDraw_font (s : State) (x : Reg) (kk r : Byte) : (s.writeMaskedDraw x kk r).font = s.font := rfl
@[simp] theorem State.writeMaskedDraw_draws (s : State) (x : Reg) (kk r : Byte) : (s.writeMaskedDraw x kk r).draws = s.draws := rfl
@[simp] theorem State.writeMaskedDraw_schedule (s : State) (x : Reg) (kk r : Byte) : (s.writeMaskedDraw x kk r).schedule = s.schedule := rfl

/-! ### skipIf -/

@[simp] theorem State.skipIf_v (s : State) (c : Bool) : (s.skipIf c).v = s.v := by cases c <;> rfl
@[simp] theorem State.skipIf_i (s : State) (c : Bool) : (s.skipIf c).i = s.i := by cases c <;> rfl
@[simp] theorem State.skipIf_pc (s : State) (c : Bool) : (s.skipIf c).pc = if c then s.pc + 2 else s.pc := by
  cases c <;> rfl
@[simp] theorem State.skipIf_sp (s : State) (c : Bool) : (s.skipIf c).sp = s.sp := by cases c <;> rfl
@[simp] theorem State.skipIf_stack (s : State) (c : Bool) : (s.skipIf c).stack = s.stack := by cases c <;> rfl
@[simp] theorem State.skipIf_mem (s : State) (c : Bool) : (s.skipIf c).mem = s.mem := by cases c <;> rfl
@[simp] theorem State.skipIf_fb (s : State) (c : Bool) : (s.skipIf c).fb = s.fb := by cases c <;> rfl
@[simp] theorem State.skipIf_dirty (s : State) (c : Bool) : (s.skipIf c).dirty = s.dirty := by cases c <;> rfl
@[simp] theorem State.skipIf_keys (s : State) (c : Bool) : (s.skipIf c).keys = s.keys := by cases c <;> rfl
@[simp] theorem State.skipIf_delay (s : State) (c : Bool) : (s.skipIf c).delay = s.delay := by cases c <;> rfl
@[simp] theorem State.skipIf_sound (s : State) (c : Bool) : (s.skipIf c).sound = s.sound := by cases c <;> rfl
@[simp] theorem State.skipIf_run (s : State) (c : Bool) : (s.skipIf c).run = s.run := by cases c <;> rfl
@[simp] theorem State.skipIf_faultCause (s : State) (c : Bool) : (s.skipIf c).faultCause = s.faultCause := by cases c <;> rfl
@[simp] theorem State.skipIf_faultPc (s : State) (c : Bool) : (s.skipIf c).faultPc = s.faultPc := by cases c <;> rfl
@[simp] theorem State.skipIf_faultWord (s : State) (c : Bool) : (s.skipIf c).faultWord = s.faultWord := by cases c <;> rfl
@[simp] theorem State.skipIf_faultAddr (s : State) (c : Bool) : (s.skipIf c).faultAddr = s.faultAddr := by cases c <;> rfl
@[simp] theorem State.skipIf_wait (s : State) (c : Bool) : (s.skipIf c).wait = s.wait := by cases c <;> rfl
@[simp] theorem State.skipIf_waitSnap (s : State) (c : Bool) : (s.skipIf c).waitSnap = s.waitSnap := by cases c <;> rfl
@[simp] theorem State.skipIf_loadStatus (s : State) (c : Bool) : (s.skipIf c).loadStatus = s.loadStatus := by cases c <;> rfl
@[simp] theorem State.skipIf_font (s : State) (c : Bool) : (s.skipIf c).font = s.font := by cases c <;> rfl
@[simp] theorem State.skipIf_draws (s : State) (c : Bool) : (s.skipIf c).draws = s.draws := by cases c <;> rfl
@[simp] theorem State.skipIf_schedule (s : State) (c : Bool) : (s.skipIf c).schedule = s.schedule := by cases c <;> rfl

/-! ### Reading back -/

/-- A register reads back the value written last (10_state.md R100). -/
@[simp] theorem State.readV_writeV (s : State) (r q : Reg) (b : Byte) :
    (s.writeV r b).readV q = if q = r then b else s.readV q := by
  simp only [State.readV, State.writeV_v, Vector.getElem_set]
  by_cases h : q = r
  · simp [h]
  · have hv : ¬ r.val = q.val := fun e => h (Fin.ext e.symm)
    simp [h, hv]

/-- A register read depends on V alone. -/
theorem State.readV_congr {s t : State} (h : t.v = s.v) (q : Reg) : t.readV q = s.readV q := by
  simp [State.readV, h]

@[simp] theorem State.readV_advance (s : State) (q : Reg) : s.advance.readV q = s.readV q := rfl

@[simp] theorem State.readV_writeFlag (s : State) (f : Bool) (q : Reg) :
    (s.writeFlag f).readV q = if q = VF then flagByte f else s.readV q := State.readV_writeV s VF q _

/-- The flag is written last: with x = 15 the result is lost (40_cycle.md R421). -/
@[simp] theorem State.readV_writeResult (s : State) (x : Reg) (b : Byte) (f : Bool) (q : Reg) :
    (s.writeResult x b f).readV q = if q = VF then flagByte f else if q = x then b else s.readV q := by
  simp [State.writeResult]

/-- `writeRegs` gives register j the j-th byte, and keeps the registers the list does not reach (R750). -/
@[simp] theorem State.readV_writeRegs (s : State) (bs : List Byte) (q : Reg) :
    (s.writeRegs bs).readV q = (bs[q.val]?).getD (s.readV q) := by
  simp [State.readV, State.writeRegs]

/-- A byte read depends on the font and the memory alone. -/
theorem State.byteAt_congr {s t : State} (hf : t.font = s.font) (hm : t.mem = s.mem) (a : Nat) :
    t.byteAt a = s.byteAt a := by
  simp [State.byteAt, hf, hm]

/-- States with one font and one memory read the same bytes. -/
theorem sameBytes_of_eq {s t : State} (hf : t.font = s.font) (hm : t.mem = s.mem) : SameBytes s t :=
  State.byteAt_congr hf hm

/-- A record update of V and pc alone has the frame `OnlyRegsAndPc`. -/
theorem onlyRegsAndPc_of_eq {s t : State} (h : t = { s with v := t.v, pc := t.pc }) : OnlyRegsAndPc s t :=
  ⟨h, sameBytes_of_eq (by rw [h]) (by rw [h])⟩

end Sys2Proof.Machine
end

