-- ==== Sys2Proof/Laws/Memory.lean ====
section
/-! SUPPORT. What the memory operations do, and that they keep the canonical form. -/

namespace Sys2Proof.Machine

variable {font : Font} {m : Memory} {a b lo : Nat} {x : Byte}

/-- The canonical form from a lower address on. -/
theorem Memory.wfFrom_mono {lo lo' : Nat} (h : Memory.wfFrom font lo m = true) (hle : lo' ≤ lo) :
    Memory.wfFrom font lo' m = true := by
  cases m with
  | nil => rfl
  | cons e m =>
    simp only [Memory.wfFrom, Bool.and_eq_true, decide_eq_true_eq] at h ⊢
    exact ⟨⟨⟨by omega, h.1.1.2⟩, h.1.2⟩, h.2⟩

/-- An address below every entry reads as an unlisted one. -/
theorem Memory.read_below (h : Memory.wfFrom font lo m = true) (ha : a < lo) :
    Memory.read font m a = unlistedByte font a := by
  induction m generalizing lo with
  | nil => rfl
  | cons e m ih =>
    simp only [Memory.wfFrom, Bool.and_eq_true, decide_eq_true_eq] at h
    have hne : e.1 ≠ a := by omega
    simp only [Memory.read, hne, if_false]
    exact ih h.2 (by omega)

/-- A write leaves every other address alone (20_memory.md R240). -/
theorem Memory.read_write_other (hab : b ≠ a) :
    Memory.read font (Memory.write font m a x) b = Memory.read font m b := by
  induction m with
  | nil =>
    simp only [Memory.write]
    split
    · rfl
    · simp [Memory.read, Ne.symm hab]
  | cons e m ih =>
    obtain ⟨k, c⟩ := e
    simp only [Memory.write]
    split
    · split
      · rfl
      · simp [Memory.read, Ne.symm hab]
    · split
      · rename_i hk
        split <;> simp [Memory.read, ← hk, Ne.symm hab]
      · simp only [Memory.read, ih]

/-- A read after a write to the same address gives the byte written (20_memory.md R240). -/
theorem Memory.read_write_same (h : Memory.wfFrom font lo m = true) :
    Memory.read font (Memory.write font m a x) a = x := by
  induction m generalizing lo with
  | nil =>
    simp only [Memory.write]
    split
    · rename_i hx; simp [Memory.read, hx]
    · simp [Memory.read]
  | cons e m ih =>
    obtain ⟨k, c⟩ := e
    have h' := h
    simp only [Memory.wfFrom, Bool.and_eq_true, decide_eq_true_eq] at h
    simp only [Memory.write]
    split
    · rename_i hk
      split
      · rename_i hx
        have hne : k ≠ a := by omega
        simp only [Memory.read, hne, if_false, hx]
        exact Memory.read_below h.2 (by omega)
      · simp [Memory.read]
    · split
      · rename_i hk
        split
        · rename_i hx
          rw [hx, hk]
          exact Memory.read_below h.2 (by omega)
        · simp [Memory.read]
      · rename_i h1 h2
        simp only [Memory.read, Ne.symm h2, if_false]
        exact ih h.2

/-- A write inside the address space keeps the canonical form. -/
theorem Memory.wfFrom_write (h : Memory.wfFrom font lo m = true) (hlo : lo ≤ a) (ha : a < Config.memSize) :
    Memory.wfFrom font lo (Memory.write font m a x) = true := by
  induction m generalizing lo with
  | nil =>
    simp only [Memory.write]
    split
    · rfl
    · rename_i hx; simp [Memory.wfFrom, hlo, ha, hx]
  | cons e m ih =>
    obtain ⟨k, c⟩ := e
    have h' := h
    simp only [Memory.wfFrom, Bool.and_eq_true, decide_eq_true_eq] at h
    simp only [Memory.write]
    split
    · split
      · exact h'
      · rename_i hk hx
        simp only [Memory.wfFrom, Bool.and_eq_true, decide_eq_true_eq]
        exact ⟨⟨⟨hlo, ha⟩, hx⟩, ⟨⟨by omega, h.1.1.2⟩, h.1.2⟩, h.2⟩
    · split
      · rename_i hk
        split
        · exact Memory.wfFrom_mono h.2 (by omega)
        · rename_i hx
          simp only [Memory.wfFrom, Bool.and_eq_true, decide_eq_true_eq]
          exact ⟨⟨⟨hlo, ha⟩, hx⟩, hk ▸ h.2⟩
      · rename_i h1 h2
        simp only [Memory.wfFrom, Bool.and_eq_true, decide_eq_true_eq]
        exact ⟨⟨⟨h.1.1.1, h.1.1.2⟩, h.1.2⟩, ih h.2 (by omega)⟩

/-- Storing bytes inside the address space keeps the canonical form. -/
theorem Memory.wf_writeBytes {bs : List Byte} (h : Memory.wf font m = true) (ha : a + bs.length ≤ Config.memSize) :
    Memory.wf font (Memory.writeBytes font m a bs) = true := by
  induction bs generalizing m a with
  | nil => exact h
  | cons b bs ih =>
    simp only [List.length_cons] at ha
    exact ih (Memory.wfFrom_write h (by omega) (by omega)) (by omega)

/-- Storing bytes leaves every address outside them alone. -/
theorem Memory.read_writeBytes_other {bs : List Byte} (hb : b < a ∨ a + bs.length ≤ b) :
    Memory.read font (Memory.writeBytes font m a bs) b = Memory.read font m b := by
  induction bs generalizing m a with
  | nil => rfl
  | cons y bs ih =>
    simp only [List.length_cons] at hb
    simp only [Memory.writeBytes]
    rw [ih (by omega), Memory.read_write_other (by omega)]

/-- Storing bytes in a canonical memory: byte j reads back at address a + j. -/
theorem Memory.read_writeBytes_inside {bs : List Byte} {j : Nat} (h : Memory.wf font m = true)
    (ha : a + bs.length ≤ Config.memSize) (hj : j < bs.length) :
    Memory.read font (Memory.writeBytes font m a bs) (a + j) = bs[j] := by
  induction bs generalizing m a j with
  | nil => simp at hj
  | cons y bs ih =>
    simp only [List.length_cons] at ha hj
    simp only [Memory.writeBytes]
    cases j with
    | zero =>
      rw [Memory.read_writeBytes_other (by omega)]
      exact Memory.read_write_same h
    | succ j =>
      have := ih (m := Memory.write font m a y) (a := a + 1) (j := j)
        (Memory.wfFrom_write h (by omega) (by omega)) (by omega) (by omega)
      rw [show a + (j + 1) = a + 1 + j by omega, this]
      simp

end Sys2Proof.Machine
end

