-- ==== Sys2Proof/Laws/Ops.lean ====
section
/-! SUPPORT. One lemma for each shared operation that says once everything it can do. -/

namespace Sys2Proof.Machine

/-! ### Range checks (20_memory.md R220) -/

theorem rangeFault_eq_none {a n : Nat} (h : n = 0 ∨ a + n - 1 ≤ 4095) : rangeFault a n = none := by
  unfold rangeFault
  rcases h with h | h
  · simp [h]
  · split
    · rfl
    · rfl

theorem rangeFault_eq_some {a n : Nat} (h0 : n ≠ 0) (h : 4095 < a + n - 1) :
    rangeFault a n = some (if a > 4095 then a else 4096) := by
  unfold rangeFault
  rw [if_neg h0, if_neg (by omega)]
  split <;> rfl

/-- `MemRead` answers the bytes when every address is in range, and otherwise the first address above 4095. -/
theorem State.memRead_cases (s : State) (a n : Nat) :
    ((n = 0 ∨ a + n - 1 ≤ 4095) ∧ s.memRead a n = .ok ((List.range n).map fun j => s.byteAt (a + j))) ∨
    ((n ≠ 0 ∧ 4095 < a + n - 1) ∧ s.memRead a n = .error (if a > 4095 then a else 4096)) := by
  by_cases h : n = 0 ∨ a + n - 1 ≤ 4095
  · exact .inl ⟨h, by simp [State.memRead, rangeFault_eq_none h]⟩
  · have h' : n ≠ 0 ∧ 4095 < a + n - 1 := by omega
    exact .inr ⟨h', by simp only [State.memRead, rangeFault_eq_some h'.1 h'.2]⟩

/-- `MemWrite` stores all bytes when every address is in range, and otherwise answers the first address above 4095. -/
theorem State.memWrite_cases (s : State) (a : Nat) (bs : List Byte) :
    ((bs.length = 0 ∨ a + bs.length - 1 ≤ 4095) ∧
      s.memWrite a bs = .ok { s with mem := Memory.writeBytes s.font s.mem a bs }) ∨
    ((bs.length ≠ 0 ∧ 4095 < a + bs.length - 1) ∧ s.memWrite a bs = .error (if a > 4095 then a else 4096)) := by
  by_cases h : bs.length = 0 ∨ a + bs.length - 1 ≤ 4095
  · exact .inl ⟨h, by simp [State.memWrite, rangeFault_eq_none h]⟩
  · have h' : bs.length ≠ 0 ∧ 4095 < a + bs.length - 1 := by omega
    exact .inr ⟨h', by simp only [State.memWrite, rangeFault_eq_some h'.1 h'.2]⟩

/-- A fetch answers the big-endian word at pc, or the first address above 4095 (40_cycle.md R401). -/
theorem State.fetch_cases (s : State) :
    (s.pc.toNat ≤ 4094 ∧ s.fetch = .ok (wordOfBytes (s.byteAt s.pc.toNat) (s.byteAt (s.pc.toNat + 1)))) ∨
    (4095 ≤ s.pc.toNat ∧ s.fetch = .error (if s.pc.toNat > 4095 then s.pc.toNat else 4096)) := by
  by_cases h : s.pc.toNat ≤ 4094
  · exact .inl ⟨h, by simp only [State.fetch, rangeFault_eq_none (n := 2) (.inr (by omega : s.pc.toNat + 2 - 1 ≤ 4095))]⟩
  · exact .inr ⟨by omega, by
      simp only [State.fetch, rangeFault_eq_some (n := 2) (by decide) (by omega : 4095 < s.pc.toNat + 2 - 1)]⟩

/-- The fetched word as a number: the byte at pc is the high byte (20_memory.md R210). -/
theorem wordOfBytes_eq (hi lo : Byte) : wordOfBytes hi lo = BitVec.ofNat 16 (256 * hi.toNat + lo.toNat) := by
  apply BitVec.eq_of_toNat_eq
  have h1 := hi.isLt
  have h2 := lo.isLt
  simp only [wordOfBytes, BitVec.toNat_append, BitVec.toNat_ofNat, Nat.shiftLeft_eq]
  rw [Nat.mul_comm hi.toNat, ← Nat.two_pow_add_eq_or_of_lt h2]
  omega

theorem wordOfBytes_toNat (hi lo : Byte) : (wordOfBytes hi lo).toNat = 256 * hi.toNat + lo.toNat := by
  have h1 := hi.isLt
  have h2 := lo.isLt
  rw [wordOfBytes_eq, BitVec.toNat_ofNat]
  omega

/-- The two bytes of a word, put together again. -/
theorem wordOfBytes_highByte_lowByte (w : Word) : wordOfBytes (highByte w) (lowByte w) = w := by
  apply BitVec.eq_of_toNat_eq
  have h := w.isLt
  rw [wordOfBytes_toNat]
  simp only [highByte, lowByte, BitVec.extractLsb'_toNat, Nat.shiftRight_eq_div_pow]
  omega

/-! ### The call stack -/

/-- A push takes the next free slot, or none is free. -/
theorem State.pushReturn_cases (s : State) (a : Word) :
    (∃ h : s.sp.val < 16, s.pushReturn a =
      some { s with stack := s.stack.set s.sp.val a, sp := ⟨s.sp.val + 1, by omega⟩ }) ∨
    (s.sp.val = 16 ∧ s.pushReturn a = none) := by
  by_cases h : s.sp.val < 16
  · exact .inl ⟨h, by simp [State.pushReturn, h]⟩
  · exact .inr ⟨by omega, by simp [State.pushReturn, h]⟩

/-- A pop gives the slot below sp, or the stack is empty. -/
theorem State.popReturn_cases (s : State) :
    (∃ h : 0 < s.sp.val, s.popReturn =
      some (s.stack[s.sp.val - 1]'(by omega), { s with sp := ⟨s.sp.val - 1, by omega⟩ })) ∨
    (s.sp.val = 0 ∧ s.popReturn = none) := by
  by_cases h : 0 < s.sp.val
  · exact .inl ⟨h, by simp [State.popReturn, h]⟩
  · exact .inr ⟨by omega, by simp [State.popReturn, h]⟩

/-! ### Keys -/

/-- `KeySet` changes the one key (45_keypad_timer.md R960). -/
theorem getLsbD_setKey (keys : BitVec 16) (k j : Fin 16) (b : Bool) :
    (setKey keys k b).getLsbD j.val = if j = k then b else keys.getLsbD j.val := by
  have hj := j.isLt
  by_cases h : j = k
  · subst h; cases b <;> simp [setKey]
  · have hv : ¬ j.val = k.val := fun e => h (Fin.ext e)
    have hv' : ¬ k.val = j.val := fun e => hv e.symm
    cases b <;> simp [setKey, h, hv]

/-- The key that ends a wait is set, and every key below it is not (R931). -/
theorem leastKey_eq_some {e : BitVec 16} {k : Fin 16} :
    leastKey e = some k ↔ e.getLsbD k.val = true ∧ ∀ j : Fin 16, j < k → e.getLsbD j.val = false := by
  simp only [leastKey, List.find?_eq_some_iff_getElem, Bool.not_eq_eq_eq_not, Bool.not_true]
  constructor
  · rintro ⟨h, i, hi, hk, hall⟩
    refine ⟨h, fun j hj => ?_⟩
    have hi' : i = k.val := by rw [← hk]; simp
    simpa using hall j.val (by omega)
  · rintro ⟨h, hall⟩
    refine ⟨h, k.val, by simp, by simp, fun j hj => ?_⟩
    simpa using hall ⟨j, by omega⟩ (by simpa [Fin.lt_def] using hj)

/-- No key ends the wait when no bit is set. -/
theorem leastKey_eq_none {e : BitVec 16} : leastKey e = none ↔ ∀ k : Fin 16, e.getLsbD k.val = false := by
  simp [leastKey, List.find?_eq_none]

/-- The keys that end a wait: down now, up at the last sample (R931). -/
theorem getLsbD_newKeys (keys snap : BitVec 16) (k : Fin 16) :
    (keys &&& ~~~ snap).getLsbD k.val = (keys.getLsbD k.val && !snap.getLsbD k.val) := by
  simp only [BitVec.getLsbD_and, BitVec.getLsbD_not, k.isLt, decide_true, Bool.true_and]

/-! ### The sprite engine -/

/-- Flipping a cell changes that cell and no other. -/
theorem cellAt_flipCell (fb : Framebuffer) (r r' : Fin 32) (c c' : Fin 64) :
    cellAt (flipCell fb r c) r' c' = if r' = r ∧ c' = c then !cellAt fb r c else cellAt fb r' c' := by
  simp only [cellAt, flipCell, Vector.getElem_set]
  by_cases hr : r' = r
  · subst hr
    by_cases hc : c' = c
    · subst hc; simp
    · have hv : ¬ c.val = c'.val := fun e => hc (Fin.ext e.symm)
      simp [hc, hv]
  · have hv : ¬ r.val = r'.val := fun e => hr (Fin.ext e.symm)
    simp [hr, hv]

/-- Two framebuffers with the same cells are equal. -/
theorem framebuffer_ext {f g : Framebuffer} (h : ∀ r c, cellAt f r c = cellAt g r c) : f = g := by
  apply Vector.ext
  intro r hr
  apply Vector.ext
  intro c hc
  exact h ⟨r, hr⟩ ⟨c, hc⟩

@[simp] theorem cellAt_blankFb (r : Fin 32) (c : Fin 64) : cellAt blankFb r c = false := by
  simp [cellAt, blankFb]

/-! ### Taking a fault -/

/-- Fault entry is the frame `Faulted` (60_exceptions.md R1010). -/
theorem faulted_takeFault (s : State) (k : FaultKind) (w : Word) (a : Nat) :
    Faulted s (s.takeFault k w a) k.code w (BitVec.ofNat 16 a) :=
  ⟨rfl, fun _ => rfl⟩

/-- Fault entry for an access whose first byte is at a 16-bit address. -/
theorem faulted_takeFault_firstBad (s : State) (w a : Word) :
    Faulted s (s.takeFault .addressOutOfRange w (if a.toNat > 4095 then a.toNat else 4096)) 4 w (firstBadAddr a) := by
  have h := faulted_takeFault s .addressOutOfRange w (if a.toNat > 4095 then a.toNat else 4096)
  have ha : BitVec.ofNat 16 (if a.toNat > 4095 then a.toNat else 4096) = firstBadAddr a := by
    unfold firstBadAddr
    split <;> simp
  rw [ha] at h
  exact h

/-! ### The wait step and the events -/

/-- A wait step ends the wait with the least new key, or refreshes the sample (R931). -/
theorem State.waitStep_cases (s : State) (x : Reg) :
    (∃ k, leastKey (s.keys &&& ~~~ s.waitSnap) = some k ∧
      s.waitStep x = { s.writeV x (BitVec.ofNat 8 k.val) with pc := s.pc + 2, wait := none }) ∨
    (leastKey (s.keys &&& ~~~ s.waitSnap) = none ∧ s.waitStep x = { s with waitSnap := s.keys }) := by
  unfold State.waitStep
  cases h : leastKey (s.keys &&& ~~~ s.waitSnap) with
  | some k => exact .inl ⟨k, rfl, rfl⟩
  | none => exact .inr ⟨rfl, rfl⟩

/-- A timer's decrement stops at 0 (R950). -/
theorem tickDown_toNat (t : Byte) : (tickDown t).toNat = t.toNat - 1 := by
  have h := t.isLt
  unfold tickDown
  split
  · rw [BitVec.toNat_sub]; simp; omega
  · omega

/-- A CpuStep of a Running core, case by case (40_cycle.md R400, R426). -/
theorem runningStep_cases (s : State) :
    (∃ x, s.wait = some x ∧ runningStep s = .next (s.waitStep x)) ∨
    (s.wait = none ∧ 4095 ≤ s.pc.toNat ∧ runningStep s =
      .next (s.takeFault .addressOutOfRange 0 (if s.pc.toNat > 4095 then s.pc.toNat else 4096))) ∨
    (s.wait = none ∧ s.pc.toNat ≤ 4094 ∧ ∃ w, w = wordOfBytes (s.byteAt s.pc.toNat) (s.byteAt (s.pc.toNat + 1)) ∧
      ((∃ r, decode w = .error r ∧ runningStep s = .next (s.takeFault .decodeFault w 0)) ∨
       (∃ i, decode w = .ok i ∧ runningStep s = exec i s))) := by
  unfold runningStep
  cases hw : s.wait with
  | some x => exact .inl ⟨x, rfl, rfl⟩
  | none =>
    rcases s.fetch_cases with ⟨hp, hf⟩ | ⟨hp, hf⟩
    · refine .inr (.inr ⟨rfl, hp, _, rfl, ?_⟩)
      simp only [hf]
      cases hd : decode (wordOfBytes (s.byteAt s.pc.toNat) (s.byteAt (s.pc.toNat + 1))) with
      | error r => exact .inl ⟨r, rfl, rfl⟩
      | ok i => exact .inr ⟨i, rfl, rfl⟩
    · exact .inr (.inl ⟨rfl, hp, by simp only [hf]⟩)

/-- With nothing scheduled a step is a CpuStep (log 3). -/
theorem step_of_schedule_nil {s : State} (h : s.schedule = []) : step s = cpuStep s := by
  simp [step, nextEvent, h, runEvent]

/-- With an event scheduled a step is that event (log 3). -/
theorem step_of_schedule_cons {s : State} {e : Event} {rest : List Event} (h : s.schedule = e :: rest) :
    step s = runEvent e { s with schedule := rest } := by
  simp [step, nextEvent, h]

/-- Scheduled or not, a CpuStep is `cpuStep` of the state it acts on. -/
theorem step_of_cpuStepFrom {s u : State} (h : CpuStepFrom s u) : step s = cpuStep u := by
  rcases h with ⟨h, rfl⟩ | ⟨rest, h, rfl⟩
  · exact step_of_schedule_nil h
  · exact step_of_schedule_cons h

theorem cpuStep_running {s : State} (h : s.run = .running) : cpuStep s = runningStep s := by
  simp [cpuStep, h]

theorem cpuStep_halted {s : State} (h : s.run = .halted) : cpuStep s = .next s := by
  simp [cpuStep, h]

end Sys2Proof.Machine
end

