-- ==== Sys2Proof/Laws/Exec.lean ====
section
/-! SUPPORT. The meanings with a check of their own, case by case: what they answer when the check holds and when it
fails. The other meanings have one case and unfold by rfl. -/

namespace Sys2Proof.Machine

/-- A taken skip ends 4 past the instruction (41_flow.md R500). -/
theorem add_two_two (p : Word) : p + 2 + 2 = p + 4 := by
  rw [BitVec.add_assoc]
  rfl

/-! ### CALL and RET -/

theorem exec_call_push (nnn : BitVec 12) (s : State) (h : s.sp.val < 16) :
    exec (.call nnn) s = .next { s with
      pc := addrOperand nnn
      sp := ⟨s.sp.val + 1, by omega⟩
      stack := s.stack.set s.sp.val (s.pc + 2) h } := by
  simp [exec, execCall, State.pushReturn, h, State.advance, State.jumpTo]

theorem exec_call_overflow (nnn : BitVec 12) (s : State) (h : s.sp.val = 16) :
    exec (.call nnn) s = .next (s.takeFault .stackOverflow (encode (.call nnn)) 0) := by
  simp [exec, execCall, State.pushReturn, h, State.advance]

theorem exec_ret_pop (s : State) (h : 0 < s.sp.val) :
    exec .ret s = .next { s with
      pc := s.stack[s.sp.val - 1]'(by omega)
      sp := ⟨s.sp.val - 1, by omega⟩ } := by
  simp [exec, execRet, State.popReturn, h, State.advance, State.jumpTo]

theorem exec_ret_underflow (s : State) (h : s.sp.val = 0) :
    exec .ret s = .next (s.takeFault .stackUnderflow (encode .ret) 0) := by
  simp [exec, execRet, State.popReturn, h, State.advance]

/-! ### Accesses through I -/

@[simp] theorem bcdDigits_length (a : Byte) : (bcdDigits a).length = 3 := rfl

@[simp] theorem readRegs_length (s : State) (x : Reg) : (s.readRegs x).length = x.val + 1 := by
  have h := x.isLt
  simp only [State.readRegs, List.length_take, Vector.length_toList]
  omega

/-- Byte j of the register range is V[j] (43_index_memory.md R745). -/
theorem readRegs_getElem (s : State) (x : Reg) (j : Nat) (h : j < (s.readRegs x).length) :
    (s.readRegs x)[j] = s.readV ⟨j, by have := x.isLt; simp at h; omega⟩ := by
  simp [State.readRegs, State.readV]

theorem exec_ldBVx_store (x : Reg) (s : State) (h : s.i.toNat + 2 ≤ 4095) :
    exec (.ldBVx x) s = .next { s with
      pc := s.pc + 2
      mem := Memory.writeBytes s.font s.mem s.i.toNat (bcdDigits (s.readV x)) } := by
  rcases s.advance.memWrite_cases s.baseAddr (bcdDigits (s.readV x)) with ⟨_, e⟩ | ⟨hb, e⟩
  · simp only [exec, execLdBVx, e]
    rfl
  · simp only [State.baseAddr, bcdDigits_length] at hb
    omega

theorem exec_ldBVx_fault (x : Reg) (s : State) (h : 4095 < s.i.toNat + 2) :
    exec (.ldBVx x) s = .next (s.takeFault .addressOutOfRange (encode (.ldBVx x))
      (if s.i.toNat > 4095 then s.i.toNat else 4096)) := by
  rcases s.advance.memWrite_cases s.baseAddr (bcdDigits (s.readV x)) with ⟨hb, _⟩ | ⟨_, e⟩
  · simp only [State.baseAddr, bcdDigits_length] at hb
    omega
  · simp only [exec, execLdBVx, e]
    rfl

theorem exec_storeRegs_store (x : Reg) (s : State) (h : s.i.toNat + x.val ≤ 4095) :
    exec (.storeRegs x) s = .next { s with
      pc := s.pc + 2
      mem := Memory.writeBytes s.font s.mem s.i.toNat (s.readRegs x) } := by
  rcases s.advance.memWrite_cases s.baseAddr (s.readRegs x) with ⟨_, e⟩ | ⟨hb, e⟩
  · simp only [exec, execStoreRegs, e]
    rfl
  · simp only [State.baseAddr, readRegs_length] at hb
    omega

theorem exec_storeRegs_fault (x : Reg) (s : State) (h : 4095 < s.i.toNat + x.val) :
    exec (.storeRegs x) s = .next (s.takeFault .addressOutOfRange (encode (.storeRegs x))
      (if s.i.toNat > 4095 then s.i.toNat else 4096)) := by
  rcases s.advance.memWrite_cases s.baseAddr (s.readRegs x) with ⟨hb, _⟩ | ⟨_, e⟩
  · simp only [State.baseAddr, readRegs_length] at hb
    omega
  · simp only [exec, execStoreRegs, e]
    rfl

theorem exec_loadRegs_load (x : Reg) (s : State) (h : s.i.toNat + x.val ≤ 4095) :
    exec (.loadRegs x) s =
      .next (s.advance.writeRegs ((List.range (x.val + 1)).map fun j => s.byteAt (s.i.toNat + j))) := by
  rcases s.memRead_cases s.baseAddr (x.val + 1) with ⟨_, e⟩ | ⟨hb, e⟩
  · simp only [exec, execLoadRegs, e]
    rfl
  · simp only [State.baseAddr] at hb
    omega

theorem exec_loadRegs_fault (x : Reg) (s : State) (h : 4095 < s.i.toNat + x.val) :
    exec (.loadRegs x) s = .next (s.takeFault .addressOutOfRange (encode (.loadRegs x))
      (if s.i.toNat > 4095 then s.i.toNat else 4096)) := by
  rcases s.memRead_cases s.baseAddr (x.val + 1) with ⟨hb, _⟩ | ⟨_, e⟩
  · simp only [State.baseAddr] at hb
    omega
  · simp only [exec, execLoadRegs, e]
    rfl

theorem exec_drw_draw (x y : Reg) (n : Nat) (s : State) (h : n = 0 ∨ s.i.toNat + n - 1 ≤ 4095) :
    exec (.drw x y n) s = .next (State.writeFlag
      { s with
        pc := s.pc + 2
        fb := (drawSprite s.fb (s.readV y).toNat (s.readV x).toNat (spriteRows s n)).fb
        dirty := s.dirty || (drawSprite s.fb (s.readV y).toNat (s.readV x).toNat (spriteRows s n)).changed }
      (drawSprite s.fb (s.readV y).toNat (s.readV x).toNat (spriteRows s n)).coll) := by
  rcases s.memRead_cases s.baseAddr n with ⟨_, e⟩ | ⟨hb, e⟩
  · simp only [exec, execDrw, e]
    rfl
  · simp only [State.baseAddr] at hb
    omega

theorem exec_drw_fault (x y : Reg) (n : Nat) (s : State) (h0 : n ≠ 0) (h : 4095 < s.i.toNat + n - 1) :
    exec (.drw x y n) s = .next (s.takeFault .addressOutOfRange (encode (.drw x y n))
      (if s.i.toNat > 4095 then s.i.toNat else 4096)) := by
  rcases s.memRead_cases s.baseAddr n with ⟨hb, _⟩ | ⟨_, e⟩
  · simp only [State.baseAddr] at hb
    omega
  · simp only [exec, execDrw, e]
    rfl

end Sys2Proof.Machine
end

