-- ==== Sys2Proof/Laws/PerInstr.lean ====
section
/-! SUPPORT. Laws made per instruction: the family nibble of every encoding is the one its row has (30_encoding.md R305). -/

namespace Sys2Proof.Laws.FamilyNibble

/-- Bits 15..12 of the instruction's word are its row's family. -/
def Statement (i : Instr) : Prop := opField (encode i) = familyOf i

theorem cls : Statement .cls := rfl

theorem ret : Statement .ret := rfl

theorem jp (nnn : BitVec 12) : Statement (.jp nnn) := opField_wordNNN 0x1#4 nnn

theorem call (nnn : BitVec 12) : Statement (.call nnn) := opField_wordNNN 0x2#4 nnn

theorem seImm (x : Reg) (kk : Byte) : Statement (.seImm x kk) := opField_wordXKK 0x3#4 x kk

theorem sneImm (x : Reg) (kk : Byte) : Statement (.sneImm x kk) := opField_wordXKK 0x4#4 x kk

theorem seReg (x y : Reg) : Statement (.seReg x y) := opField_wordXYN 0x5#4 x y 0x0#4

theorem ldImm (x : Reg) (kk : Byte) : Statement (.ldImm x kk) := opField_wordXKK 0x6#4 x kk

theorem addImm (x : Reg) (kk : Byte) : Statement (.addImm x kk) := opField_wordXKK 0x7#4 x kk

theorem ldReg (x y : Reg) : Statement (.ldReg x y) := opField_wordXYN 0x8#4 x y 0x0#4

theorem orReg (x y : Reg) : Statement (.orReg x y) := opField_wordXYN 0x8#4 x y 0x1#4

theorem andReg (x y : Reg) : Statement (.andReg x y) := opField_wordXYN 0x8#4 x y 0x2#4

theorem xorReg (x y : Reg) : Statement (.xorReg x y) := opField_wordXYN 0x8#4 x y 0x3#4

theorem addReg (x y : Reg) : Statement (.addReg x y) := opField_wordXYN 0x8#4 x y 0x4#4

theorem subReg (x y : Reg) : Statement (.subReg x y) := opField_wordXYN 0x8#4 x y 0x5#4

theorem shr (x y : Reg) : Statement (.shr x y) := opField_wordXYN 0x8#4 x y 0x6#4

theorem subnReg (x y : Reg) : Statement (.subnReg x y) := opField_wordXYN 0x8#4 x y 0x7#4

theorem shl (x y : Reg) : Statement (.shl x y) := opField_wordXYN 0x8#4 x y 0xE#4

theorem sneReg (x y : Reg) : Statement (.sneReg x y) := opField_wordXYN 0x9#4 x y 0x0#4

theorem ldI (nnn : BitVec 12) : Statement (.ldI nnn) := opField_wordNNN 0xA#4 nnn

theorem jpV0 (nnn : BitVec 12) : Statement (.jpV0 nnn) := opField_wordNNN 0xB#4 nnn

theorem rnd (x : Reg) (kk : Byte) : Statement (.rnd x kk) := opField_wordXKK 0xC#4 x kk

theorem drw (x y : Reg) (n : Nat) : Statement (.drw x y n) := opField_wordXYN 0xD#4 x y (BitVec.ofNat 4 n)

theorem skp (x : Reg) : Statement (.skp x) := opField_wordXKK 0xE#4 x 0x9E#8

theorem sknp (x : Reg) : Statement (.sknp x) := opField_wordXKK 0xE#4 x 0xA1#8

theorem ldVxDT (x : Reg) : Statement (.ldVxDT x) := opField_wordXKK 0xF#4 x 0x07#8

theorem ldVxK (x : Reg) : Statement (.ldVxK x) := opField_wordXKK 0xF#4 x 0x0A#8

theorem ldDTVx (x : Reg) : Statement (.ldDTVx x) := opField_wordXKK 0xF#4 x 0x15#8

theorem ldSTVx (x : Reg) : Statement (.ldSTVx x) := opField_wordXKK 0xF#4 x 0x18#8

theorem addIVx (x : Reg) : Statement (.addIVx x) := opField_wordXKK 0xF#4 x 0x1E#8

theorem ldFVx (x : Reg) : Statement (.ldFVx x) := opField_wordXKK 0xF#4 x 0x29#8

theorem ldBVx (x : Reg) : Statement (.ldBVx x) := opField_wordXKK 0xF#4 x 0x33#8

theorem storeRegs (x : Reg) : Statement (.storeRegs x) := opField_wordXKK 0xF#4 x 0x55#8

theorem loadRegs (x : Reg) : Statement (.loadRegs x) := opField_wordXKK 0xF#4 x 0x65#8

end Sys2Proof.Laws.FamilyNibble
end

