-- ==== Sys2Proof/Tests/Slice0.lean ====
section
/-! SUPPORT. Tests of the model, each about one step, and the witnesses of the statements' hypotheses. The expected values
come from spec/95_test_vectors.md (the vector is named in each test) or from the rule named. -/

namespace Sys2Proof.Tests

open Sys2Proof.Machine

/-! ### Helpers -/

/-- One step of the state with the word w at pc satisfies p. -/
def runs (s : State) (w : Nat) (p : State → Bool) : Bool :=
  match Machine.step (s.withFetchWord 16 w) with
  | .next t => p t
  | .fault _ => false
  | .refused _ => false

/-- One event of the schedule satisfies p. -/
def after (s : State) (p : State → Bool) : Bool :=
  match Machine.step s with
  | .next t => p t
  | .fault _ => false
  | .refused _ => false

/-- The reset state with some registers set. -/
def withRegs (l : List (Reg × Byte)) : State := l.foldl (fun s e => s.writeV e.1 e.2) State.reset

/-- A state with bytes stored at an address. -/
def withBytes (s : State) (a : Nat) (bs : List Byte) : State :=
  { s with mem := Memory.writeBytes s.font s.mem a bs }

/-- The fault registers, as a vector's "Fault (code, fault_pc, fault_word, fault_addr)". -/
def fault (t : State) (cause : BitVec 3) (pc word addr : Word) : Bool :=
  t.run == .halted && t.pc == pc && t.faultPorts == (cause, pc, word, addr)

/-! ### Well-formedness -/

theorem test_wellFormed_height_15 : (Instr.drw 1 2 15).WellFormed = true := by decide

/-- The one check: a height of 16 does not fit the 4-bit field (R301). -/
theorem test_illFormed_height_16 : (Instr.drw 1 2 16).WellFormed = false := by decide

/-! ### Decoding: every constructor from a word written out from the table of 30_encoding.md R305 -/

theorem test_decode_flow :
    [0x00EE, 0x1250, 0x2456, 0x3310, 0x4311, 0x5120, 0x9120, 0xB300].map (decodeTableWord 16) =
      [some .ret, some (.jp 0x250), some (.call 0x456), some (.seImm 3 0x10), some (.sneImm 3 0x11), some (.seReg 1 2),
        some (.sneReg 1 2), some (.jpV0 0x300)] := by decide

theorem test_decode_alu :
    [0x6A05, 0x7103, 0x8120, 0x8341, 0x8562, 0x8783, 0x89A4, 0x8BC5, 0x8456, 0x8DE7, 0x845E, 0xC30F].map
        (decodeTableWord 16) =
      [some (.ldImm 10 5), some (.addImm 1 3), some (.ldReg 1 2), some (.orReg 3 4), some (.andReg 5 6),
        some (.xorReg 7 8), some (.addReg 9 10), some (.subReg 11 12), some (.shr 4 5), some (.subnReg 13 14),
        some (.shl 4 5), some (.rnd 3 15)] := by decide

theorem test_decode_memory_display :
    [0xA050, 0xF21E, 0xF029, 0xF133, 0xF255, 0xF365, 0x00E0, 0xDAB2].map (decodeTableWord 16) =
      [some (.ldI 0x050), some (.addIVx 2), some (.ldFVx 0), some (.ldBVx 1), some (.storeRegs 2), some (.loadRegs 3),
        some .cls, some (.drw 10 11 2)] := by decide

theorem test_decode_keypad_timer :
    [0xE59E, 0xE6A1, 0xF307, 0xF20A, 0xF015, 0xF118].map (decodeTableWord 16) =
      [some (.skp 5), some (.sknp 6), some (.ldVxDT 3), some (.ldVxK 2), some (.ldDTVx 0), some (.ldSTVx 1)] := by
  decide

/-- X-1 to X-13: illegal words of every family that has one. -/
theorem test_decode_illegal :
    [0x0000, 0x0123, 0x00E1, 0x00FF, 0x5121, 0x8008, 0x800F, 0x9AB1, 0xE000, 0xE09F, 0xF000, 0xF01F, 0xF0FF].map
      (decodeTableWord 16) = List.replicate 13 none := by decide

/-- R300, R210: the high byte comes first, and the bytes after the instruction are left over. -/
theorem test_decodeBytes_bigEndian : decodeBytes [0x6A, 0x05, 0xFF] = .ok (.ldImm 10 5, [0xFF]) := by rfl

theorem test_decodeBytes_tooShort : decodeBytes [0x6A] = .error .tooShort := by rfl

theorem test_encodeBytes_drw : encodeBytes (.drw 10 11 2) = [0xDA, 0xB2] := by decide

/-! ### Control flow -/

theorem test_ret_underflow_F1 : runs State.reset 0x00EE (fun t => fault t 3 0x200 0x00EE 0 && t.sp == 0) = true := by
  decide

theorem test_ret_pops_F2 :
    runs { State.reset with pc := 0x300, sp := 2, stack := State.reset.stack.set 1 0x246 } 0x00EE
      (fun t => t.pc == 0x246 && t.sp == 1 && t.stack[1] == 0x246) = true := by decide

theorem test_jp_L1_8 : runs State.reset 0x1250 (fun t => t.pc == 0x250 && t.sp == 0) = true := by decide

theorem test_call_overflow_F3 :
    runs { State.reset with sp := 16 } 0x2300 (fun t => fault t 2 0x200 0x2300 0 && t.sp == 16) = true := by decide

theorem test_call_lastSlot_F4 :
    runs { State.reset with sp := 15 } 0x2300 (fun t => t.pc == 0x300 && t.sp == 16 && t.stack[15] == 0x202) = true := by
  decide

theorem test_se_imm_F8 : runs (withRegs [(3, 0x42)]) 0x3342 (fun t => t.pc == 0x204) = true := by decide

theorem test_sne_imm_F10 : runs (withRegs [(3, 0x42)]) 0x4342 (fun t => t.pc == 0x202) = true := by decide

theorem test_se_reg_F12 : runs (withRegs [(3, 7), (4, 7)]) 0x5340 (fun t => t.pc == 0x204) = true := by decide

theorem test_sne_reg_F14 : runs (withRegs [(3, 7), (4, 8)]) 0x9340 (fun t => t.pc == 0x204) = true := by decide

theorem test_jpV0_F19 : runs (withRegs [(0, 0xFF)]) 0xBFFF (fun t => t.pc == 0x10FE) = true := by decide

/-! ### ALU -/

theorem test_ldImm_L1_1 : runs State.reset 0x6FFF (fun t => t.readV VF == 0xFF && t.pc == 0x202) = true := by decide

theorem test_addImm_A2 : runs (withRegs [(15, 0xFF)]) 0x7F01 (fun t => t.readV VF == 0x00) = true := by decide

theorem test_ldReg_A3 :
    runs (withRegs [(1, 0x12), (2, 0x34)]) 0x8120 (fun t => t.readV 1 == 0x34 && t.readV 2 == 0x34) = true := by decide

theorem test_or_A4 :
    runs (withRegs [(1, 0xF0), (2, 0x0F), (15, 0x55)]) 0x8121 (fun t => t.readV 1 == 0xFF && t.readV VF == 0x55) = true := by
  decide

theorem test_and_A5 :
    runs (withRegs [(1, 0xF0), (2, 0x3C), (15, 0x55)]) 0x8122 (fun t => t.readV 1 == 0x30 && t.readV VF == 0x55) = true := by
  decide

theorem test_xor_A6 : runs (withRegs [(1, 0xF0), (2, 0x3C)]) 0x8123 (fun t => t.readV 1 == 0xCC) = true := by decide

theorem test_add_carry_A9 :
    runs (withRegs [(1, 0x80), (2, 0x80)]) 0x8124 (fun t => t.readV 1 == 0 && t.readV VF == 1) = true := by decide

theorem test_add_flagLast_L1_2c : runs (withRegs [(15, 250), (3, 10)]) 0x8F34 (fun t => t.readV VF == 1) = true := by
  decide

theorem test_sub_equal_A14 :
    runs (withRegs [(1, 7), (2, 7)]) 0x8125 (fun t => t.readV 1 == 0 && t.readV VF == 0) = true := by decide

theorem test_sub_borrow_L1_3a :
    runs (withRegs [(1, 10), (2, 250)]) 0x8125 (fun t => t.readV 1 == 16 && t.readV VF == 0) = true := by decide

theorem test_shr_ignoresVy_A21 :
    runs (withRegs [(1, 0x80), (2, 0x01)]) 0x8126 (fun t => t.readV 1 == 0x40 && t.readV VF == 0) = true := by decide

theorem test_shr_flagLast_A23 : runs (withRegs [(15, 3)]) 0x8F06 (fun t => t.readV VF == 1) = true := by decide

theorem test_subn_A24 :
    runs (withRegs [(1, 10), (2, 250)]) 0x8127 (fun t => t.readV 1 == 240 && t.readV VF == 1) = true := by decide

theorem test_shl_A27 : runs (withRegs [(1, 0x80)]) 0x810E (fun t => t.readV 1 == 0 && t.readV VF == 1) = true := by decide

theorem test_shl_A28 : runs (withRegs [(1, 0x7F)]) 0x810E (fun t => t.readV 1 == 0xFE && t.readV VF == 0) = true := by
  decide

/-- A-31, A-33: the draw is an argument of this helper, so the vectors' draws can be given. -/
theorem test_rnd_masks_A31 : (State.reset.writeMaskedDraw 1 0x0F 0xAB).readV 1 = 0x0B := by decide

theorem test_rnd_takes_one_draw : runs State.reset 0xC100 (fun t => t.draws == 1 && t.pc == 0x202) = true := by decide

/-! ### Index and memory -/

theorem test_ldI_M1 : runs State.reset 0xA123 (fun t => t.i == 0x123) = true := by decide

theorem test_addI_wraps_M3 :
    runs { withRegs [(2, 1)] with i := 0xFFFF } 0xF21E (fun t => t.i == 0 && t.readV VF == 0) = true := by decide

theorem test_ldF_notMasked_M7 : runs (withRegs [(2, 0xFF)]) 0xF229 (fun t => t.i == 0x4FB) = true := by decide

theorem test_bcd_atTheTop_M11 :
    runs { withRegs [(2, 42)] with i := 0xFFD } 0xF233
      (fun t => [t.byteAt 0xFFD, t.byteAt 0xFFE, t.byteAt 0xFFF] == [0, 4, 2] && t.i == 0xFFD) = true := by decide

theorem test_bcd_outOfRange_M12 :
    runs { withRegs [(2, 42)] with i := 0xFFE } 0xF233
      (fun t => fault t 4 0x200 0xF233 0x1000 && t.byteAt 0xFFE == 0) = true := by decide

theorem test_store_outOfRange_M16 :
    runs { State.reset with i := 0x2345 } 0xF055 (fun t => fault t 4 0x200 0xF055 0x2345) = true := by decide

theorem test_store_43_example :
    runs { withRegs [(0, 1), (1, 2), (2, 3), (3, 4)] with i := 0x400 } 0xF255
      (fun t => [t.byteAt 0x400, t.byteAt 0x401, t.byteAt 0x402, t.byteAt 0x403] == [1, 2, 3, 0] && t.i == 0x400) = true := by
  decide

theorem test_load_M19 :
    runs { withBytes (withRegs [(3, 0x77)]) 0x500 [7, 8, 9, 10] with i := 0x500 } 0xF265
      (fun t => [t.readV 0, t.readV 1, t.readV 2, t.readV 3] == [7, 8, 9, 0x77]) = true := by decide

theorem test_load_outOfRange_M21 :
    runs { State.reset with i := 0xFFF } 0xF165 (fun t => fault t 4 0x200 0xF165 0x1000) = true := by decide

/-- Writing back what an unlisted address reads as removes the entry: the font byte 0xF0 at address 0. -/
theorem test_memory_canonical :
    Memory.write Config.defaultFont (Memory.write Config.defaultFont [] 0 1) 0 0xF0 = [] := by decide

/-! ### Display -/

theorem test_cls_setsDirty_D2 : runs State.reset 0x00E0 (fun t => t.dirty && !cellAt t.fb 5 5) = true := by decide

theorem test_drw_wraps_D6 :
    runs { withBytes (withRegs [(0, 0xFF), (1, 0xFF)]) 0x300 [0x80] with i := 0x300 } 0xD011
      (fun t => cellAt t.fb 31 63 && t.readV VF == 0 && t.dirty) = true := by decide

theorem test_drw_collision_D8 :
    runs { withBytes State.reset 0x300 [0x18] with
        i := 0x300, fb := (drawSprite blankFb 0 0 [0xF0]).fb } 0xD011
      (fun t => t.readV VF == 1 && cellAt t.fb 0 2 && !cellAt t.fb 0 3 && cellAt t.fb 0 4) = true := by decide

/-! ### Keypad, timers and the other events -/

theorem test_skp_lowNibble_K3 :
    runs { withRegs [(0, 0x13)] with keys := 0x0008 } 0xE09E (fun t => t.pc == 0x204) = true := by decide

theorem test_sknp_K5 : runs { withRegs [(0, 0xF5)] with keys := 0x0020 } 0xE0A1 (fun t => t.pc == 0x202) = true := by
  decide

theorem test_ldVxDT_K6 :
    runs { State.reset with delay := 0x2A } 0xF107 (fun t => t.readV 1 == 0x2A && t.delay == 0x2A) = true := by decide

theorem test_ldDT_K7 : runs (withRegs [(1, 0x3C)]) 0xF115 (fun t => t.delay == 0x3C) = true := by decide

theorem test_ldST_K8 : runs { State.reset with sound := 9 } 0xF118 (fun t => t.sound == 0 && !t.soundOn) = true := by
  decide

theorem test_ldVxK_enters_K12 :
    runs { State.reset with pc := 0x300 } 0xF20A
      (fun t => t.wait == some 2 && t.pc == 0x300 && t.waitSnap == 0) = true := by decide

/-- K-15: keys 9 and 4 went down during the wait of F20A at 0x300. -/
theorem test_wait_leastKey_K15 :
    after { State.reset with pc := 0x300, wait := some 2, keys := 0x0210 }
      (fun t => t.readV 2 == 4 && t.pc == 0x302 && t.wait == none) = true := by decide

/-- K-16: a key already held at entry does not end the wait, and its release is recorded. -/
theorem test_wait_heldKey_K16 :
    after { State.reset with wait := some 2, keys := 0x0010, waitSnap := 0x0010 } (fun t => t.wait == some 2) = true ∧
    after { State.reset with wait := some 2, keys := 0, waitSnap := 0x0010 }
      (fun t => t.wait == some 2 && t.waitSnap == 0) = true := by decide

theorem test_tick_K10 :
    after { State.reset with delay := 3, schedule := [.timerTick] } (fun t => t.delay == 2 && t.sound == 0) = true := by
  decide

theorem test_tick_halted_K11 :
    after { State.reset with run := .halted, delay := 3, schedule := [.timerTick] } (fun t => t.delay == 3) = true := by
  decide

theorem test_keySet_C9 :
    after { State.reset with dirty := true, schedule := [.keySet 2 true] } (fun t => t.keys == 0x0004 && t.dirty) = true := by
  decide

theorem test_present_D15 :
    after { State.reset with dirty := true, schedule := [.present] } (fun t => !t.dirty) = true := by decide

/-- L1-9: the program bytes land at 0x200 unchanged, and the font stays. -/
theorem test_reset_loads :
    after { State.reset with run := .halted, schedule := [.reset [0x60, 0xC0]] }
      (fun t => t.run == .running && t.byteAt 0x200 == 0x60 && t.byteAt 0x201 == 0xC0 && t.byteAt 0x032 == 0xF0) = true := by
  decide

/-- C-8: a program of 3585 bytes does not load. -/
theorem test_reset_tooLong_C8 :
    (State.reset.resetWith (List.replicate 3585 0)).run = .halted ∧
    (State.reset.resetWith (List.replicate 3585 0)).loadStatus = 5 := by
  have h : (List.replicate 3585 (0 : Byte)).length > Config.maxRom := by rw [List.length_replicate]; decide
  rw [State.resetWith, if_pos h]
  exact ⟨rfl, rfl⟩

/-! ### Fetch and decode faults -/

theorem test_fetch_C2 : after { State.reset with pc := 0xFFF } (fun t => fault t 4 0xFFF 0 0x1000) = true := by decide

/-- F-7: the font bytes F0 90 at address 0 are no instruction, under the default font. -/
theorem test_fontIsNoCode_F7 : after { State.reset with pc := 0 } (fun t => fault t 1 0 0xF090 0) = true := by decide

theorem test_halted_C4 : after { State.reset with run := .halted } (fun t => t.pc == 0x200 && t.run == .halted) = true := by
  decide

/-! ### Witnesses: a concrete state and operands that meet the hypotheses of each statement -/

theorem witness_DecodeOfEncodeGivesTheInstructionBack : (Instr.drw 15 0 15).WellFormed = true ∧
    (Instr.drw 0 15 0).WellFormed = true := by decide

theorem witness_EncodeOfDecodeGivesTheWordBack : decode 0x8FF6 = .ok (.shr 15 15) ∧ decode 0xD00F = .ok (.drw 0 0 15) :=
  ⟨rfl, rfl⟩

/-- A CpuStep that the schedule does not name, and one that it names. -/
theorem cpuStepFrom_reset : CpuStepFrom State.reset State.reset := .inl ⟨rfl, rfl⟩

theorem cpuStepFrom_scheduled (s : State) :
    CpuStepFrom { s with schedule := [.cpuStep, .present] } { s with schedule := [.present] } := .inr ⟨_, rfl, rfl⟩

/-- At 0x200, and at the last address that can be fetched from, 0xFFE, with the CpuStep scheduled. -/
theorem witness_StepRunsTheDecodedInstruction :
    (∃ (s u : State) (i : Instr), CpuStepFrom s u ∧ Fetching u ∧ u.pc.toNat = 0x200 ∧
      decode (BitVec.ofNat 16 (256 * (u.byteAt u.pc.toNat).toNat + (u.byteAt (u.pc.toNat + 1)).toNat)) = .ok i) ∧
    (∃ (s u : State) (i : Instr), CpuStepFrom s u ∧ Fetching u ∧ u.pc.toNat = 4094 ∧
      decode (BitVec.ofNat 16 (256 * (u.byteAt u.pc.toNat).toNat + (u.byteAt (u.pc.toNat + 1)).toNat)) = .ok i) :=
  ⟨⟨State.reset.withFetchWord 16 0x6011, _, .ldImm 0 0x11, .inl ⟨rfl, rfl⟩, ⟨rfl, rfl⟩, rfl, rfl⟩,
   ⟨_, _, .ldImm 0 0x11, cpuStepFrom_scheduled (({ State.reset with pc := 0xFFE }).withFetchWord 16 0x6011),
    ⟨rfl, rfl⟩, rfl, rfl⟩⟩

theorem witness_FetchOutOfRangeFaults :
    (∃ s u : State, CpuStepFrom s u ∧ Fetching u ∧ u.pc.toNat = 4095) ∧
    (∃ s u : State, CpuStepFrom s u ∧ Fetching u ∧ u.pc.toNat = 4096) :=
  ⟨⟨{ State.reset with pc := 0xFFF }, _, .inl ⟨rfl, rfl⟩, ⟨rfl, rfl⟩, rfl⟩,
   ⟨_, _, cpuStepFrom_scheduled { State.reset with pc := 0x1000 }, ⟨rfl, rfl⟩, rfl⟩⟩

theorem witness_IllegalWordFaults : ∃ (s u : State) (w : Word) (r : DecodeReject), CpuStepFrom s u ∧ Fetching u ∧
    u.pc.toNat ≤ 4094 ∧ w.toNat = 256 * (u.byteAt u.pc.toNat).toNat + (u.byteAt (u.pc.toNat + 1)).toNat ∧
    decode w = .error r :=
  ⟨_, _, 0, .family0, cpuStepFrom_scheduled State.reset, ⟨rfl, rfl⟩, by decide, by decide, rfl⟩

theorem witness_HaltedIgnoresStepsAndTicks :
    (∃ s : State, s.run = .halted ∧ s.schedule = []) ∧
    (∃ (s : State) (rest : List Event), s.run = .halted ∧ s.schedule = .cpuStep :: rest) ∧
    (∃ (s : State) (rest : List Event), s.run = .halted ∧ s.schedule = .timerTick :: rest) :=
  ⟨⟨{ State.reset with run := .halted }, rfl, rfl⟩,
   ⟨{ State.reset with run := .halted, schedule := [.cpuStep] }, [], rfl, rfl⟩,
   ⟨{ State.reset with run := .halted, schedule := [.timerTick] }, [], rfl, rfl⟩⟩

theorem witness_PcAfterEveryInstruction :
    (∃ (i : Instr) (s t : State), s.run = .running ∧ exec i s = .next t ∧ t.run = .running) ∧
    (∃ s u t : State, CpuStepFrom s u ∧ u.wait ≠ none ∧ Machine.step s = .next t ∧ t.wait ≠ none) :=
  ⟨⟨.jp 0x250, State.reset, _, rfl, rfl, rfl⟩,
   ⟨_, _, _, cpuStepFrom_scheduled { State.reset with wait := some 3 }, by decide, rfl, by decide⟩⟩

theorem witness_CallPushesOrOverflows :
    (∃ s : State, s.sp.val < 16 ∧ s.sp.val = 15) ∧ (∃ s : State, s.sp.val = 16) :=
  ⟨⟨{ State.reset with sp := 15 }, by decide, rfl⟩, ⟨{ State.reset with sp := 16 }, rfl⟩⟩

theorem witness_ReturnPopsOrUnderflows :
    (∃ (s : State) (j : Fin 16), s.sp.val = j.val + 1 ∧ j.val = 15) ∧
    (∃ (s : State) (j : Fin 16), s.sp.val = j.val + 1 ∧ j.val = 0) ∧ (∃ s : State, s.sp.val = 0) :=
  ⟨⟨{ State.reset with sp := 16 }, 15, rfl, rfl⟩, ⟨{ State.reset with sp := 1 }, 0, rfl, rfl⟩, ⟨State.reset, rfl⟩⟩

theorem witness_CallThenReturnComesBack : ∃ s : State, s.sp.val < 16 := ⟨{ State.reset with sp := 15 }, by decide⟩

theorem witness_RegisterSkips : ∃ n : BitVec 4, n ≠ 0 := ⟨1, by decide⟩

theorem witness_RandomByteIsAMaskedDraw : ∃ (kk : Byte) (k : Nat), kk.getLsbD k = false := ⟨0x0F, 4, by decide⟩

/-- The last address where three bytes fit is 0xFFD. -/
theorem witness_BcdStoresThreeDigits : ∃ s : State, MemCanonical s ∧ s.i.toNat + 2 = 4095 :=
  ⟨{ State.reset with i := 0xFFD }, rfl, rfl⟩

theorem witness_StoreCopiesRegistersToMemory : ∃ (x : Reg) (s : State), MemCanonical s ∧ s.i.toNat + x.val = 4095 :=
  ⟨15, { State.reset with i := 0xFF0 }, rfl, rfl⟩

theorem witness_LoadCopiesMemoryToRegisters : ∃ (x : Reg) (s : State), s.i.toNat + x.val = 4095 :=
  ⟨15, { State.reset with i := 0xFF0 }, rfl⟩

/-- One witness for each of the four accesses, the first address that is too high. -/
theorem witness_AccessOutOfRangeFaults :
    (∃ s : State, accessLength (.ldBVx 2) = some 3 ∧ s.i.toNat + 3 - 1 = 4096) ∧
    (∃ s : State, accessLength (.storeRegs 15) = some 16 ∧ s.i.toNat + 16 - 1 = 4096) ∧
    (∃ s : State, accessLength (.loadRegs 0) = some 1 ∧ s.i.toNat + 1 - 1 = 4096) ∧
    (∃ s : State, (Instr.drw 1 2 15).WellFormed = true ∧ accessLength (.drw 1 2 15) = some 15 ∧
      s.i.toNat + 15 - 1 = 4096) :=
  ⟨⟨{ State.reset with i := 0xFFE }, rfl, rfl⟩, ⟨{ State.reset with i := 0xFF1 }, rfl, rfl⟩,
   ⟨{ State.reset with i := 0x1000 }, rfl, rfl⟩, ⟨{ State.reset with i := 0xFF2 }, rfl, rfl, rfl⟩⟩

theorem witness_FetchSeesStoredBytes : ∃ s : State, MemCanonical s ∧ s.i.toNat + 1 = 4095 :=
  ⟨{ State.reset with i := 0xFFE }, rfl, rfl⟩

/-- n = 0 with I above memory, and n = 15 with the last row at 4095. -/
theorem witness_DrawXorsTheSprite :
    (∃ (s : State) (n : Nat), n ≤ 15 ∧ n = 0 ∧ s.i.toNat = 65535) ∧
    (∃ (s : State) (n : Nat), n ≤ 15 ∧ n = 15 ∧ s.i.toNat + n - 1 = 4095) :=
  ⟨⟨{ State.reset with i := 0xFFFF }, 0, by decide, rfl, rfl⟩, ⟨{ State.reset with i := 0xFF1 }, 15, by decide, rfl, rfl⟩⟩

/-- n = 15 with the last row at 4095, and n = 0 with I above memory. -/
theorem witness_DrawingTwiceRestoresTheFramebuffer :
    (∃ (x y : Reg) (n : Nat) (s : State), x ≠ VF ∧ y ≠ VF ∧ n = 15 ∧ s.i.toNat + n - 1 = 4095) ∧
    (∃ (x y : Reg) (n : Nat) (s : State), x ≠ VF ∧ y ≠ VF ∧ n = 0 ∧ s.i.toNat = 65535) :=
  ⟨⟨14, 0, 15, { State.reset with i := 0xFF1 }, by decide, by decide, rfl, rfl⟩,
   ⟨14, 0, 0, { State.reset with i := 0xFFFF }, by decide, by decide, rfl, rfl⟩⟩

theorem witness_SecondEqualDrawAlwaysCollides :
    ∃ (x y : Reg) (n : Nat) (s t u : State), x ≠ VF ∧ y ≠ VF ∧ 0 < n ∧ n ≤ 15 ∧ s.i.toNat + n - 1 ≤ 4095 ∧
      (∃ b ∈ spriteRows s n, b ≠ 0) ∧ exec (.drw x y n) s = .next t ∧ exec (.drw x y n) t = .next u :=
  ⟨0, 1, 1, State.reset, _, _, by decide, by decide, by decide, by decide, by decide, by decide, rfl, rfl⟩

/-- Key 15, the last one, goes down while key 0 is held; the CpuStep is scheduled. -/
theorem witness_KeyWaitStoresTheLeastNewKey :
    ∃ (x : Reg) (s u : State) (k : Fin 16), CpuStepFrom s u ∧ u.run = .running ∧ u.wait = some x ∧ k = 15 ∧
      u.keys.getLsbD k.val = true ∧ u.waitSnap.getLsbD k.val = false ∧
      ∀ j : Fin 16, j < k → u.keys.getLsbD j.val = true → u.waitSnap.getLsbD j.val = true :=
  ⟨2, _, _, 15, cpuStepFrom_scheduled { State.reset with wait := some 2, keys := 0x8001, waitSnap := 0x0001 },
    rfl, rfl, rfl, by decide, by decide, by decide⟩

theorem witness_KeyWaitWithoutNewKeyGoesOn :
    ∃ (x : Reg) (s u : State), CpuStepFrom s u ∧ u.run = .running ∧ u.wait = some x ∧ u.keys ≠ 0 ∧
      ∀ k : Fin 16, u.keys.getLsbD k.val = true → u.waitSnap.getLsbD k.val = true :=
  ⟨2, _, _, cpuStepFrom_scheduled { State.reset with wait := some 2, keys := 0x0010, waitSnap := 0x0030 },
    rfl, rfl, by decide, by decide⟩

theorem witness_TimerTickCountsBothTimersDown :
    ∃ (s : State) (rest : List Event), s.schedule = .timerTick :: rest ∧ s.run = .running :=
  ⟨{ State.reset with schedule := [.timerTick], wait := some 3 }, [], rfl, rfl⟩

theorem witness_TicksSaturateAtZero : ∃ s : State, s.run = .running := ⟨State.reset, rfl⟩

theorem witness_KeySetAndPresentChangeOnlyTheirOwn :
    (∃ (s : State) (k : Fin 16) (b : Bool) (rest : List Event), s.schedule = .keySet k b :: rest) ∧
    (∃ (s : State) (rest : List Event), s.schedule = .present :: rest) :=
  ⟨⟨{ State.reset with schedule := [.keySet 15 true] }, 15, true, [], rfl⟩,
   ⟨{ State.reset with schedule := [.present] }, [], rfl⟩⟩

/-- The longest program that loads, 3584 bytes; it also meets the hypotheses of `ResetSetsEveryRegister`. -/
theorem witness_ResetLoadsFontAndProgram :
    ∃ (s : State) (rom : List Byte) (rest : List Event), s.schedule = .reset rom :: rest ∧ rom.length ≤ 3584 ∧
      rom.length = 3584 :=
  ⟨{ State.reset with schedule := [.reset (List.replicate 3584 0x12)] }, _, [], rfl, by rw [List.length_replicate],
    by rw [List.length_replicate]⟩

theorem witness_ResetSetsEveryRegister :
    ∃ (s : State) (rom : List Byte) (rest : List Event), s.schedule = .reset rom :: rest ∧ rom.length ≤ 3584 :=
  ⟨{ State.reset with schedule := [.reset [0x12, 0x00], .cpuStep] }, [0x12, 0x00], [.cpuStep], rfl, by decide⟩

/-- The shortest program that does not load, 3585 bytes, the longest that does, and the empty program. -/
theorem witness_ResetChecksTheProgramSize :
    (∃ (s : State) (rom : List Byte) (rest : List Event), s.schedule = .reset rom :: rest ∧ rom.length = 3585) ∧
    (∃ (s : State) (rom : List Byte) (rest : List Event), s.schedule = .reset rom :: rest ∧ rom.length = 3584) ∧
    (∃ s : State, s.schedule = [.reset []]) :=
  ⟨⟨{ State.reset with schedule := [.reset (List.replicate 3585 0x12)] }, _, [], rfl, by rw [List.length_replicate]⟩,
   ⟨{ State.reset with schedule := [.reset (List.replicate 3584 0x12)] }, _, [], rfl, by rw [List.length_replicate]⟩,
   ⟨{ State.reset with schedule := [.reset []] }, rfl⟩⟩

/-- The state after reset with no program: its first word is 0 (C-6). -/
theorem witness_FaultsArePrecise :
    ∃ s u t : State, CpuStepFrom s u ∧ u.run = .running ∧ Machine.step s = .next t ∧ t.run = .halted :=
  ⟨_, _, _, cpuStepFrom_scheduled State.reset, rfl, rfl, rfl⟩

theorem witness_CoreStopsExactlyOnTheFourFaults : ∃ s u : State, CpuStepFrom s u ∧ Fetching u :=
  ⟨_, _, cpuStepFrom_reset, rfl, rfl⟩

theorem witness_OnlyResetLeavesHalted :
    (∃ s t : State, Machine.step s = .next t ∧ s.run = .halted ∧ t.run = .running) ∧
    (∃ s t : State, Machine.step s = .next t ∧ s.run = .running ∧ t.run = .halted) :=
  ⟨⟨{ State.reset with run := .halted, schedule := [.reset []] }, _, rfl, rfl, rfl⟩, ⟨State.reset, _, rfl, rfl, rfl⟩⟩

theorem witness_OnlyListedInstructionsWriteVF :
    ∃ (i : Instr) (s t : State), exec i s = .next t ∧ ¬ MayWriteVF i :=
  ⟨.ldImm 14 3, State.reset, _, rfl, by simp [MayWriteVF, MayWriteReg, VF]⟩

theorem witness_OnlyStoresWriteMemory :
    ∃ (i : Instr) (s t : State), exec i s = .next t ∧ (∀ x, i ≠ .ldBVx x) ∧ (∀ x, i ≠ .storeRegs x) :=
  ⟨.loadRegs 3, State.reset, _, rfl, by simp, by simp⟩

/-- One instruction meets the premise of every clause. -/
theorem witness_EachUnitHasItsOwnWriters :
    ∃ (i : Instr) (s t : State), exec i s = .next t ∧ (∃ r, ¬ MayWriteReg i r) ∧ ¬ OwnCheckFails i s ∧
      (∀ x kk, i ≠ .rnd x kk) ∧ (∀ nnn, i ≠ .ldI nnn) ∧ (∀ x, i ≠ .addIVx x) ∧
      (∀ x, i ≠ .ldFVx x) ∧ (∀ nnn, i ≠ .call nnn) ∧ i ≠ .ret ∧ i ≠ .cls ∧ (∀ x y n, i ≠ .drw x y n) ∧
      (∀ x, i ≠ .ldDTVx x) ∧ (∀ x, i ≠ .ldSTVx x) ∧ (∀ x, i ≠ .ldVxK x) :=
  ⟨.addReg 1 2, State.reset, _, rfl, ⟨3, by simp [MayWriteReg, VF]⟩, by simp [OwnCheckFails, accessLength], by simp, by simp, by simp, by simp, by simp, by simp, by simp, by simp, by simp, by simp,
    by simp⟩

/-- Two different states that look the same to a program. -/
theorem witness_ProgramsCannotReadHiddenState : ∃ s s' : State, s.sound ≠ s'.sound ∧ programView s = programView s' :=
  ⟨State.reset, { State.reset with sound := 9 }, by decide, rfl⟩

theorem witness_StepKeepsMemoryCanonical : ∃ s t : State, MemCanonical s ∧ Machine.step s = .next t :=
  ⟨State.reset.withFetchWord 16 0xF055, _, rfl, rfl⟩

theorem witness_StepKeepsPcBounded : ∃ s t : State, PcBounded s ∧ Machine.step s = .next t :=
  ⟨State.reset, _, ⟨by decide, by decide, by decide⟩, rfl⟩

theorem witness_StepKeepsRunStateConsistent : ∃ s t : State, RunConsistent s ∧ Machine.step s = .next t :=
  ⟨State.reset, _, ⟨fun _ => ⟨⟨rfl, rfl, rfl, rfl⟩, rfl⟩, fun h => by cases h⟩, rfl⟩

theorem witness_InvariantsHoldWhereverEventsLead :
    ∃ s t : State, Inv s ∧ Reaches s t ∧ t.run = .halted :=
  ⟨State.reset, _, ⟨rfl, ⟨by decide, by decide, by decide⟩, ⟨fun _ => ⟨⟨rfl, rfl, rfl, rfl⟩, rfl⟩, fun h => by cases h⟩⟩,
    .step (.refl _) rfl, rfl⟩

end Sys2Proof.Tests
end

/-! # What a step can do, and what every event keeps (00_scope.md)

`exec_completes` and `exec_faults` say what an instruction does to the fields the invariants read, `cpuStep_move` says
what a CpuStep does, and `KeptByEvents` carries a predicate along a run. -/

namespace Sys2Proof.Machine

/-! ### An instruction that completes -/

/-- What an instruction whose own check passes does to the fields the invariants read. -/
structure Completion (s t : State) : Prop where
  /-- The keys, the run state, the fault registers, load_status, the font and the schedule stay. -/
  frame : t = { s with
    v := t.v, i := t.i, pc := t.pc, sp := t.sp, stack := t.stack, mem := t.mem, fb := t.fb, dirty := t.dirty
    delay := t.delay, sound := t.sound, wait := t.wait, waitSnap := t.waitSnap, draws := t.draws }
  /-- Memory stays, or bytes are stored inside the address space (20_memory.md R220). -/
  mem : t.mem = s.mem ∨
    ∃ a bs, a + bs.length ≤ Config.memSize ∧ t.mem = Memory.writeBytes s.font s.mem a bs
  /-- pc moves on by at most 4, or to a jump's target, or to a return address (40_cycle.md R410, R411). -/
  pc : t.pc.toNat ≤ s.pc.toNat + 4 ∨ t.pc.toNat ≤ 0x10FE ∨ ∃ j : Fin 16, t.pc = s.stack[j.val]
  /-- The stack stays, or one slot takes the advanced pc (41_flow.md R520). -/
  stack : t.stack = s.stack ∨ ∃ j : Fin 16, t.stack = s.stack.set j.val (s.pc + 2)
  /-- A wait begins only at the instruction's own pc (45_keypad_timer.md R930). -/
  wait : t.wait = s.wait ∨ t.pc = s.pc

theorem add_two_toNat_le (p : Word) : (p + 2).toNat ≤ p.toNat + 2 := by
  rw [BitVec.toNat_add]
  exact Nat.mod_le _ _

/-- The default advance, with writes to any of the fields that no invariant reads. -/
theorem Completion.of_advance (s : State) (v : Vector Byte 16) (i : Word) (fb : Framebuffer) (dirty : Bool)
    (delay sound : Byte) (draws : Nat) :
    Completion s { s.advance with
      v := v, i := i, fb := fb, dirty := dirty, delay := delay, sound := sound, draws := draws } :=
  ⟨rfl, .inl rfl, .inl ((add_two_toNat_le s.pc).trans (by omega)), .inl rfl, .inl rfl⟩

/-- The default advance, with a store inside the address space. -/
theorem Completion.of_store (s : State) {a : Nat} {bs : List Byte} (h : a + bs.length ≤ Config.memSize) :
    Completion s { s with pc := s.pc + 2, mem := Memory.writeBytes s.font s.mem a bs } :=
  ⟨rfl, .inr ⟨a, bs, h, rfl⟩, .inl ((add_two_toNat_le s.pc).trans (by omega)), .inl rfl, .inl rfl⟩

/-- A skip, taken or not (41_flow.md R500). -/
theorem Completion.of_skip (s : State) (c : Bool) : Completion s (s.advance.skipIf c) := by
  have h1 := add_two_toNat_le s.pc
  have h2 := add_two_toNat_le (s.pc + 2)
  refine ⟨by cases c <;> rfl, .inl (by simp), .inl ?_, .inl (by simp), .inl (by simp)⟩
  cases c <;> simp <;> omega

/-- A jump to an address that pc may hold (10_state.md R115). -/
theorem Completion.of_jump (s : State) {a : Word} (h : a.toNat ≤ 0x10FE) : Completion s (s.advance.jumpTo a) :=
  ⟨rfl, .inl rfl, .inr (.inl h), .inl rfl, .inl rfl⟩

theorem addrOperand_le (nnn : BitVec 12) : (addrOperand nnn).toNat ≤ 0x10FE := by
  simp only [addrOperand, BitVec.toNat_setWidth]
  omega

theorem offsetTarget_le (v0 : Byte) (nnn : BitVec 12) : (offsetTarget v0 nnn).toNat ≤ 0x10FE := by
  simp only [offsetTarget, BitVec.toNat_add, BitVec.toNat_setWidth]
  omega

/-- Where the own check passes, an access through I stays in 0..4095 (20_memory.md R220). -/
theorem access_le_of_check {i : Instr} {s : State} {n : Nat} (h : ¬ OwnCheckFails i s)
    (hn : accessLength i = some n) : s.i.toNat + n - 1 ≤ 4095 :=
  Nat.le_of_not_lt fun hi => h (.inr (.inr ⟨n, hn, hi⟩))

/-- An instruction whose own check passes completes (40_cycle.md R426). -/
theorem exec_completes {i : Instr} {s : State} (h : ¬ OwnCheckFails i s) :
    ∃ t, exec i s = .next t ∧ Completion s t := by
  cases i with
  | cls | ldImm | addImm | ldReg | orReg | andReg | xorReg | addReg | subReg | shr | subnReg | shl | ldI | rnd
  | ldVxDT | ldDTVx | ldSTVx | addIVx | ldFVx => exact ⟨_, rfl, .of_advance s ..⟩
  | seImm | sneImm | seReg | sneReg | skp | sknp => exact ⟨_, rfl, .of_skip s _⟩
  | jp nnn => exact ⟨_, rfl, .of_jump s (addrOperand_le nnn)⟩
  | jpV0 nnn => exact ⟨_, rfl, .of_jump s (offsetTarget_le _ nnn)⟩
  | ldVxK x => exact ⟨_, rfl, rfl, .inl rfl, .inl (Nat.le_add_right ..), .inl rfl, .inr rfl⟩
  | call nnn =>
    have hne : s.sp.val ≠ 16 := fun e => h (.inl ⟨⟨nnn, rfl⟩, e⟩)
    have hsp : s.sp.val < 16 := by omega
    exact ⟨_, exec_call_push nnn s hsp, rfl, .inl rfl, .inr (.inl (addrOperand_le nnn)),
      .inr ⟨⟨s.sp.val, hsp⟩, rfl⟩, .inl rfl⟩
  | ret =>
    have hsp : 0 < s.sp.val := Nat.pos_of_ne_zero fun e => h (.inr (.inl ⟨rfl, e⟩))
    exact ⟨_, exec_ret_pop s hsp, rfl, .inl rfl, .inr (.inr ⟨⟨s.sp.val - 1, by omega⟩, rfl⟩), .inl rfl, .inl rfl⟩
  | drw x y n =>
    have hi : n = 0 ∨ s.i.toNat + n - 1 ≤ 4095 := or_iff_not_imp_left.mpr fun h0 => access_le_of_check h (if_neg h0)
    exact ⟨_, exec_drw_draw x y n s hi, .of_advance s ..⟩
  | ldBVx x =>
    have hi : s.i.toNat + 2 ≤ 4095 := access_le_of_check h rfl
    exact ⟨_, exec_ldBVx_store x s hi, .of_store s (by rw [bcdDigits_length, Config.memSize]; omega)⟩
  | storeRegs x =>
    have hi : s.i.toNat + x.val ≤ 4095 := access_le_of_check h rfl
    exact ⟨_, exec_storeRegs_store x s hi, .of_store s (by rw [readRegs_length, Config.memSize]; omega)⟩
  | loadRegs x =>
    have hi : s.i.toNat + x.val ≤ 4095 := access_le_of_check h rfl
    exact ⟨_, exec_loadRegs_load x s hi, .of_advance s ..⟩

/-! ### An instruction that faults -/

/-- Fault entry records a fault other than AddressOutOfRange with the address 0 (60_exceptions.md R1010). -/
theorem faultRecorded_takeFault (s : State) {k : FaultKind} (w : Word) (hk : k ≠ .addressOutOfRange) :
    FaultRecorded (s.takeFault k w 0) := by
  cases k <;> simp_all [FaultRecorded, FaultKind.code]

/-- Fault entry records an access whose first byte is at a 16-bit address with an address above 4095. -/
theorem faultRecorded_takeFault_firstBad (s : State) (w a : Word) :
    FaultRecorded (s.takeFault .addressOutOfRange w (if a.toNat > 4095 then a.toNat else 4096)) := by
  have ha := a.isLt
  refine ⟨.inr (.inr (.inr rfl)), rfl, fun h => absurd rfl h, fun _ => ?_⟩
  simp only [State.takeFault_faultAddr, BitVec.toNat_ofNat]
  split <;> omega

/-- An instruction whose own check fails takes a fault (40_cycle.md R426, 60_exceptions.md R1010). -/
theorem exec_faults {i : Instr} {s : State} (h : OwnCheckFails i s) :
    ∃ k w a, exec i s = .next (s.takeFault k w a) ∧ FaultRecorded (s.takeFault k w a) := by
  rcases h with ⟨⟨nnn, rfl⟩, hsp⟩ | ⟨rfl, hsp⟩ | ⟨n, hn, hi⟩
  · exact ⟨_, _, _, exec_call_overflow nnn s hsp, faultRecorded_takeFault s _ (by decide)⟩
  · exact ⟨_, _, _, exec_ret_underflow s hsp, faultRecorded_takeFault s _ (by decide)⟩
  · cases i <;> simp only [accessLength, reduceCtorEq, Option.some.injEq] at hn
    case drw x y m =>
      obtain ⟨hm, rfl⟩ : m ≠ 0 ∧ m = n := by simpa using hn
      exact ⟨_, _, _, exec_drw_fault x y m s hm hi, faultRecorded_takeFault_firstBad s _ s.i⟩
    case ldBVx x =>
      exact ⟨_, _, _, exec_ldBVx_fault x s (by omega), faultRecorded_takeFault_firstBad s _ s.i⟩
    case storeRegs x =>
      exact ⟨_, _, _, exec_storeRegs_fault x s (by omega), faultRecorded_takeFault_firstBad s _ s.i⟩
    case loadRegs x =>
      exact ⟨_, _, _, exec_loadRegs_fault x s (by omega), faultRecorded_takeFault_firstBad s _ s.i⟩

/-! ### A CpuStep -/

/-- What a CpuStep can do (40_cycle.md R400, 60_exceptions.md R1012). -/
inductive CpuMove (s : State) : State → Prop where
  | idle (hrun : s.run = .halted) : CpuMove s s
  | waitStep {x : Reg} (hrun : s.run = .running) (hwait : s.wait = some x) : CpuMove s (s.waitStep x)
  | fault {k : FaultKind} {w : Word} {a : Nat} (hs : Fetching s) (hrec : FaultRecorded (s.takeFault k w a)) :
      CpuMove s (s.takeFault k w a)
  | complete {t : State} (hs : Fetching s) (hpc : s.pc.toNat ≤ 4094) (h : Completion s t) : CpuMove s t

/-- Every CpuStep answers a next state, by one of these moves. -/
theorem cpuStep_move (s : State) : ∃ t, cpuStep s = .next t ∧ CpuMove s t := by
  cases hrun : s.run with
  | halted => exact ⟨s, cpuStep_halted hrun, .idle hrun⟩
  | running =>
    rw [cpuStep_running hrun]
    rcases runningStep_cases s with
      ⟨x, hwait, e⟩ | ⟨hwait, _, e⟩ | ⟨hwait, hpc, w, _, ⟨_, _, e⟩ | ⟨i, _, e⟩⟩
    · exact ⟨_, e, .waitStep hrun hwait⟩
    · exact ⟨_, e, .fault ⟨hrun, hwait⟩ (faultRecorded_takeFault_firstBad s 0 s.pc)⟩
    · exact ⟨_, e, .fault ⟨hrun, hwait⟩ (faultRecorded_takeFault s w (by decide))⟩
    · rw [e]
      by_cases hc : OwnCheckFails i s
      · obtain ⟨k, w', a, e', hrec⟩ := exec_faults hc
        exact ⟨_, e', .fault ⟨hrun, hwait⟩ hrec⟩
      · obtain ⟨t, e', ht⟩ := exec_completes hc
        exact ⟨t, e', .complete ⟨hrun, hwait⟩ hpc ht⟩

/-! ### What every event keeps -/

/-- The predicate does not depend on what TimerTick, KeySet, Present and the schedule write, every CpuStep keeps it,
and Reset establishes it. -/
structure KeptByEvents (P : State → Prop) : Prop where
  frame : ∀ {s : State} (keys : BitVec 16) (dirty : Bool) (delay sound : Byte) (schedule : List Event), P s →
    P { s with keys := keys, dirty := dirty, delay := delay, sound := sound, schedule := schedule }
  cpuMove : ∀ {s t : State}, P s → CpuMove s t → P t
  reset : ∀ (s : State) (rom : List Byte), P (s.resetWith rom)

theorem State.timerTick_running {s : State} (h : s.run = .running) :
    s.timerTick = { s with delay := tickDown s.delay, sound := tickDown s.sound } := by
  simp [State.timerTick, h]

theorem State.timerTick_halted {s : State} (h : s.run = .halted) : s.timerTick = s := by
  simp [State.timerTick, h]

theorem KeptByEvents.runEvent {P : State → Prop} (hP : KeptByEvents P) {e : Event} {s t : State} (hs : P s)
    (h : runEvent e s = .next t) : P t := by
  cases e with
  | cpuStep =>
    obtain ⟨t', e, hmove⟩ := cpuStep_move s
    cases e.symm.trans h
    exact hP.cpuMove hs hmove
  | timerTick =>
    cases h
    cases hrun : s.run with
    | running => exact State.timerTick_running hrun ▸ hP.frame s.keys s.dirty _ _ s.schedule hs
    | halted => exact (State.timerTick_halted hrun).symm ▸ hs
  | keySet k b =>
    cases h
    exact hP.frame (setKey s.keys k b) s.dirty s.delay s.sound s.schedule hs
  | present =>
    cases h
    exact hP.frame s.keys false s.delay s.sound s.schedule hs
  | reset rom =>
    cases h
    exact hP.reset s rom

/-- A step keeps it, whatever the schedule (log 3). -/
theorem KeptByEvents.step {P : State → Prop} (hP : KeptByEvents P) {s t : State} (hs : P s)
    (h : step s = .next t) : P t := by
  cases hsched : s.schedule with
  | nil => exact hP.runEvent (e := .cpuStep) hs ((step_of_schedule_nil hsched).symm.trans h)
  | cons e rest =>
    exact hP.runEvent (hP.frame s.keys s.dirty s.delay s.sound rest hs)
      ((step_of_schedule_cons hsched).symm.trans h)

/-- It holds wherever events lead (00_scope.md R20, R21). -/
theorem KeptByEvents.reaches {P : State → Prop} (hP : KeptByEvents P) {s t : State} (hs : P s)
    (h : Reaches s t) : P t := by
  induction h with
  | refl => exact hs
  | step _ h' ih => exact hP.step ih h'

/-! ### Memory stays canonical -/

theorem Completion.memCanonical {s t : State} (h : Completion s t) (hs : MemCanonical s) : MemCanonical t := by
  have hfont : t.font = s.font := by rw [h.frame]
  unfold MemCanonical
  rw [hfont]
  rcases h.mem with e | ⟨a, bs, ha, e⟩
  · rw [e]
    exact hs
  · rw [e]
    exact Memory.wf_writeBytes hs ha

theorem resetWith_memCanonical (s : State) (rom : List Byte) : MemCanonical (s.resetWith rom) := by
  unfold State.resetWith
  split
  next => rfl
  next hlen =>
    have hfits : Config.progBase + rom.length ≤ Config.memSize := by
      simp only [Config.maxRom, Config.memSize, Config.progBase] at hlen ⊢
      omega
    exact Memory.wf_writeBytes (m := []) rfl hfits

theorem memCanonical_keptByEvents : KeptByEvents MemCanonical where
  frame _ _ _ _ _ hs := hs
  cpuMove {s _} hs hmove := by
    cases hmove with
    | idle => exact hs
    | @waitStep x => rcases s.waitStep_cases x with ⟨_, _, e⟩ | ⟨_, e⟩ <;> rw [e] <;> exact hs
    | fault => exact hs
    | complete _ _ h => exact h.memCanonical hs
  reset := resetWith_memCanonical

/-! ### pc stays bounded -/

theorem Completion.pcBounded {s t : State} (h : Completion s t) (hwait : s.wait = none) (hpc : s.pc.toNat ≤ 4094)
    (hs : PcBounded s) : PcBounded t := by
  obtain ⟨_, hstack, _⟩ := hs
  refine ⟨?_, fun j => ?_, fun hw => ?_⟩
  · rcases h.pc with hle | hle | ⟨j, e⟩
    · omega
    · exact hle
    · have := hstack j
      rw [e]
      omega
  · rcases h.stack with e | ⟨k, e⟩
    · rw [e]
      exact hstack j
    · have hpush := add_two_toNat_le s.pc
      simp only [e, Vector.getElem_set]
      split
      · omega
      · exact hstack j
  · rcases h.wait with e | e
    · exact absurd (e.trans hwait) hw
    · rw [e]
      exact hpc

theorem waitStep_pcBounded {s : State} {x : Reg} (hwait : s.wait = some x) (hs : PcBounded s) :
    PcBounded (s.waitStep x) := by
  obtain ⟨hpc, hstack, hw⟩ := hs
  have hpc' : s.pc.toNat ≤ 4094 := hw (by simp [hwait])
  have hnext := add_two_toNat_le s.pc
  rcases s.waitStep_cases x with ⟨_, _, e⟩ | ⟨_, e⟩ <;> rw [e]
  · exact ⟨by simp only; omega, hstack, fun h => absurd rfl h⟩
  · exact ⟨hpc, hstack, hw⟩

theorem resetWith_pcBounded (s : State) (rom : List Byte) : PcBounded (s.resetWith rom) := by
  have h : PcBounded State.reset := ⟨by decide, by decide, by decide⟩
  unfold State.resetWith
  split <;> exact h

theorem pcBounded_keptByEvents : KeptByEvents PcBounded where
  frame _ _ _ _ _ hs := hs
  cpuMove hs hmove := by
    cases hmove with
    | idle => exact hs
    | waitStep _ hwait => exact waitStep_pcBounded hwait hs
    | fault => exact hs
    | complete hf hpc h => exact h.pcBounded hf.2 hpc hs
  reset := resetWith_pcBounded

/-! ### The run state stays consistent -/

/-- In a Running state it is enough that no fault and no failed load is on record. -/
theorem runConsistent_of_running {s : State} (hrun : s.run = .running) (hnone : NoFaultRecorded s)
    (hload : s.loadStatus = 0) : RunConsistent s :=
  ⟨fun _ => ⟨hnone, hload⟩, fun h => by simp [hrun] at h⟩

theorem takeFault_runConsistent {s : State} {k : FaultKind} {w : Word} {a : Nat} (hs : Fetching s)
    (hrec : FaultRecorded (s.takeFault k w a)) (hc : RunConsistent s) : RunConsistent (s.takeFault k w a) :=
  ⟨fun h => by simp at h, fun _ => ⟨hs.2, .inr ⟨(hc.1 hs.1).2, hrec⟩⟩⟩

theorem Completion.runConsistent {s t : State} (h : Completion s t) (hrun : s.run = .running)
    (hs : RunConsistent s) : RunConsistent t := by
  obtain ⟨hnone, hload⟩ := hs.1 hrun
  rw [h.frame]
  exact runConsistent_of_running hrun hnone hload

theorem waitStep_runConsistent {s : State} (x : Reg) (hrun : s.run = .running) (hs : RunConsistent s) :
    RunConsistent (s.waitStep x) := by
  obtain ⟨hnone, hload⟩ := hs.1 hrun
  rcases s.waitStep_cases x with ⟨_, _, e⟩ | ⟨_, e⟩ <;> rw [e] <;>
    exact runConsistent_of_running hrun hnone hload

theorem resetWith_runConsistent (s : State) (rom : List Byte) : RunConsistent (s.resetWith rom) := by
  unfold State.resetWith
  split
  · exact ⟨fun h => by simp at h, fun _ => ⟨rfl, .inl ⟨rfl, rfl, rfl, rfl, rfl⟩⟩⟩
  · exact runConsistent_of_running rfl ⟨rfl, rfl, rfl, rfl⟩ rfl

theorem runConsistent_keptByEvents : KeptByEvents RunConsistent where
  frame _ _ _ _ _ hs := hs
  cpuMove hs hmove := by
    cases hmove with
    | idle => exact hs
    | @waitStep x hrun => exact waitStep_runConsistent x hrun hs
    | fault hf hrec => exact takeFault_runConsistent hf hrec hs
    | complete hf _ h => exact h.runConsistent hf.1 hs
  reset := resetWith_runConsistent

/-- A consistent Halted core has its reason on record (60_exceptions.md R1010, 70_reset_and_hazards.md R1101). -/
theorem RunConsistent.reason_of_halted {s : State} (h : RunConsistent s) (hrun : s.run = .halted) :
    s.loadStatus = 5 ∨ (1 ≤ s.faultCause.toNat ∧ s.faultCause.toNat ≤ 4 ∧ s.faultPc = s.pc) := by
  obtain ⟨_, ⟨hload, _⟩ | ⟨_, hcause, hpc, _⟩⟩ := h.2 hrun
  · exact .inl hload
  · refine .inr ⟨?_, ?_, hpc⟩ <;> rcases hcause with e | e | e | e <;> simp [e]

/-! ### The statements -/

/-- Settles O60: each of the three invariants is kept by every event, and the reason of a stopped core is read off
the third. -/
theorem invariantsHoldWhereverEventsLead : Obligations.InvariantsHoldWhereverEventsLead := by
  intro s t ⟨hmem, hpc, hrun⟩ hreach
  have hrun' : RunConsistent t := runConsistent_keptByEvents.reaches hrun hreach
  exact ⟨⟨memCanonical_keptByEvents.reaches hmem hreach, pcBounded_keptByEvents.reaches hpc hreach, hrun'⟩,
    hrun'.reason_of_halted⟩

/-- Settles O10: with nothing scheduled the step is a CpuStep, otherwise the scheduled event, and a Halted core answers
either with the state it acts on. -/
theorem haltedIgnoresStepsAndTicks : Obligations.HaltedIgnoresStepsAndTicks := by
  intro s hrun
  refine ⟨fun hsched => ?_, fun rest hsched => ?_, fun rest hsched => ?_⟩
  · rw [step_of_schedule_nil hsched, cpuStep_halted hrun]
  · rw [step_of_schedule_cons hsched]
    exact cpuStep_halted hrun
  · rw [step_of_schedule_cons hsched]
    exact congrArg Host.Outcome.next (State.timerTick_halted hrun)

end Sys2Proof.Machine

/-! # Which state an instruction reads and writes, and how the run state changes (10_state.md)

`exec_programView` says that an instruction reads nothing outside the view of a program, `OwnWriters` lists what an
instruction does not write, and `step_run_cases` says how an event can change the run state. -/

namespace Sys2Proof.Machine

/-! ### The own check of an instruction (40_cycle.md R426) -/

theorem sp_lt_of_check {nnn : BitVec 12} {s : State} (h : ¬ OwnCheckFails (.call nnn) s) : s.sp.val < 16 := by
  have hne : s.sp.val ≠ 16 := fun e => h (.inl ⟨⟨nnn, rfl⟩, e⟩)
  omega

theorem sp_pos_of_check {s : State} (h : ¬ OwnCheckFails .ret s) : 0 < s.sp.val :=
  Nat.pos_of_ne_zero fun e => h (.inr (.inl ⟨rfl, e⟩))

/-- A draw of no rows accesses nothing (44_display.md R810). -/
theorem drw_access_le_of_check {x y : Reg} {n : Nat} {s : State} (h : ¬ OwnCheckFails (.drw x y n) s) :
    n = 0 ∨ s.i.toNat + n - 1 ≤ 4095 :=
  or_iff_not_imp_left.mpr fun h0 => access_le_of_check h (if_neg h0)

/-- What an executed instruction did: its own check failed and it took a fault, or it completed. -/
theorem exec_cases {i : Instr} {s t : State} (h : exec i s = .next t) :
    (OwnCheckFails i s ∧ ∃ k w a, t = s.takeFault k w a) ∨ (¬ OwnCheckFails i s ∧ Completion s t) := by
  by_cases hc : OwnCheckFails i s
  · obtain ⟨k, w, a, e, _⟩ := exec_faults hc
    cases e.symm.trans h
    exact .inl ⟨hc, k, w, a, rfl⟩
  · obtain ⟨t', e, hdone⟩ := exec_completes hc
    cases e.symm.trans h
    exact .inr ⟨hc, hdone⟩

/-! ### What a program can read -/

theorem programView_skipIf (s : State) (c : Bool) :
    programView (s.skipIf c) = programView ((programView s).skipIf c) := by
  cases c <;> rfl

/-- An instruction does to the view of a state what it does to the state, as far as a program can see. A fault writes
only what a program cannot read (60_exceptions.md R1011), and the own check reads only what it can. -/
theorem exec_programView (i : Instr) (s : State) :
    ∃ t t', exec i s = .next t ∧ exec i (programView s) = .next t' ∧ programView t = programView t' := by
  by_cases hc : OwnCheckFails i s
  · obtain ⟨_, _, _, e, _⟩ := exec_faults hc
    have hc' : OwnCheckFails i (programView s) := hc
    obtain ⟨_, _, _, e', _⟩ := exec_faults hc'
    exact ⟨_, _, e, e', rfl⟩
  · cases i with
    | seImm | sneImm | seReg | sneReg | skp | sknp => exact ⟨_, _, rfl, rfl, programView_skipIf s.advance _⟩
    | call nnn =>
      have hsp := sp_lt_of_check hc
      exact ⟨_, _, exec_call_push nnn s hsp, exec_call_push nnn (programView s) hsp, rfl⟩
    | ret =>
      have hsp := sp_pos_of_check hc
      exact ⟨_, _, exec_ret_pop s hsp, exec_ret_pop (programView s) hsp, rfl⟩
    | drw x y n =>
      have hi := drw_access_le_of_check hc
      exact ⟨_, _, exec_drw_draw x y n s hi, exec_drw_draw x y n (programView s) hi, rfl⟩
    | ldBVx x =>
      have hi : s.i.toNat + 2 ≤ 4095 := access_le_of_check hc rfl
      exact ⟨_, _, exec_ldBVx_store x s hi, exec_ldBVx_store x (programView s) hi, rfl⟩
    | storeRegs x =>
      have hi : s.i.toNat + x.val ≤ 4095 := access_le_of_check hc rfl
      exact ⟨_, _, exec_storeRegs_store x s hi, exec_storeRegs_store x (programView s) hi, rfl⟩
    | loadRegs x =>
      have hi : s.i.toNat + x.val ≤ 4095 := access_le_of_check hc rfl
      exact ⟨_, _, exec_loadRegs_load x s hi, exec_loadRegs_load x (programView s) hi, rfl⟩
    | _ => exact ⟨_, _, rfl, rfl, rfl⟩

/-- Settles O55: each of the two states answers as their common view does. -/
theorem programsCannotReadHiddenState : Obligations.ProgramsCannotReadHiddenState := by
  intro i s s' hview
  obtain ⟨t, u, ht, hu, htu⟩ := exec_programView i s
  obtain ⟨t', u', ht', hu', htu'⟩ := exec_programView i s'
  have huu' : u = u' := by
    rw [hview] at hu
    exact Host.Outcome.next.inj (hu.symm.trans hu')
  exact ⟨t, t', ht, ht', htu.trans (huu' ▸ htu'.symm)⟩

/-! ### The invariants, one event at a time -/

/-- Settles O57: every event keeps the bound. A return address and a skip from an address that was fetched from stay
below it. -/
theorem stepKeepsPcBounded : Obligations.StepKeepsPcBounded :=
  fun _ _ hs h => pcBounded_keptByEvents.step hs h

/-- Settles O58: only a fault, a Reset or a key wait touches these fields, and each leaves them in agreement. -/
theorem stepKeepsRunStateConsistent : Obligations.StepKeepsRunStateConsistent :=
  fun _ _ hs h => runConsistent_keptByEvents.step hs h

/-- The state after reset is the one a Reset with the empty program gives (log 9). -/
theorem resetWith_reset_nil : State.reset.resetWith [] = State.reset := rfl

/-- Settles O59: each invariant holds after every Reset, the one with the empty program among them. -/
theorem invariantsHoldAtReset : Obligations.InvariantsHoldAtReset := by
  have h : Inv (State.reset.resetWith []) :=
    ⟨resetWith_memCanonical _ _, resetWith_pcBounded _ _, resetWith_runConsistent _ _⟩
  rwa [resetWith_reset_nil] at h

/-! ### Reset -/

theorem maxRom_eq : Config.maxRom = 3584 := rfl

/-- A program of at most 3584 bytes is loaded; a longer one leaves the core Halted (70_reset_and_hazards.md R1101). -/
theorem State.resetWith_cases (s : State) (rom : List Byte) :
    (rom.length ≤ 3584 ∧
      s.resetWith rom = { s.clear with mem := Memory.writeBytes s.font [] Config.progBase rom }) ∨
    (3584 < rom.length ∧ s.resetWith rom = { s.clear with run := .halted, loadStatus := 5 }) := by
  unfold State.resetWith
  rw [maxRom_eq]
  split
  next h => exact .inr ⟨h, rfl⟩
  next h => exact .inl ⟨Nat.le_of_not_lt h, rfl⟩

/-- Reset gives every register its value of 10_state.md R180. -/
theorem resetValues_clear (s : State) : ResetValues s.clear :=
  ⟨fun r => Vector.getElem_replicate r.isLt, rfl, rfl, rfl, fun j => Vector.getElem_replicate j.isLt,
    cellAt_blankFb, rfl, rfl, rfl, rfl, ⟨rfl, rfl, rfl, rfl⟩, rfl, rfl⟩

/-- Settles O47: the step is the Reset, which clears every register and loads the program. -/
theorem resetSetsEveryRegister : Obligations.ResetSetsEveryRegister := by
  intro s rom rest hsched hlen
  refine ⟨_, step_of_schedule_cons hsched, ?_⟩
  rcases State.resetWith_cases { s with schedule := rest } rom with ⟨_, e⟩ | ⟨hlong, _⟩
  · rw [e]
    exact ⟨resetValues_clear { s with schedule := rest }, rfl, rfl, rfl, rfl, rfl⟩
  · omega

/-! ### How the run state changes (10_state.md R140) -/

theorem State.waitStep_run (s : State) (x : Reg) : (s.waitStep x).run = s.run := by
  rcases s.waitStep_cases x with ⟨_, _, e⟩ | ⟨_, e⟩ <;> simp [e]

theorem CpuMove.run_cases {s t : State} (h : CpuMove s t) :
    t.run = s.run ∨ (s.run = .running ∧ FaultRecorded t) := by
  cases h with
  | idle => exact .inl rfl
  | @waitStep x => exact .inl (s.waitStep_run x)
  | fault hf hrec => exact .inr ⟨hf.1, hrec⟩
  | complete _ _ hc => exact .inl (by rw [hc.frame])

/-- An event other than Reset keeps the run state, or it is a CpuStep of a Running core that records a fault. -/
theorem runEvent_run_cases {e : Event} {s t : State} (h : runEvent e s = .next t) :
    (∃ rom, e = .reset rom ∧ t = s.resetWith rom) ∨ t.run = s.run ∨ (s.run = .running ∧ FaultRecorded t) := by
  cases e with
  | cpuStep =>
    obtain ⟨t', e, hmove⟩ := cpuStep_move s
    cases e.symm.trans h
    exact .inr hmove.run_cases
  | timerTick =>
    cases h
    cases hrun : s.run with
    | running => exact .inr (.inl (by rw [State.timerTick_running hrun, hrun]))
    | halted => exact .inr (.inl (by rw [State.timerTick_halted hrun, hrun]))
  | keySet k b => cases h; exact .inr (.inl rfl)
  | present => cases h; exact .inr (.inl rfl)
  | reset rom => cases h; exact .inl ⟨rom, rfl, rfl⟩

theorem step_run_cases {s t : State} (h : step s = .next t) :
    (∃ rom rest, s.schedule = .reset rom :: rest ∧ t = { s with schedule := rest }.resetWith rom) ∨
      t.run = s.run ∨ (s.run = .running ∧ FaultRecorded t) := by
  cases hsched : s.schedule with
  | nil =>
    rcases runEvent_run_cases (e := .cpuStep) ((step_of_schedule_nil hsched).symm.trans h) with ⟨_, e, _⟩ | hrun
    · cases e
    · exact .inr hrun
  | cons e rest =>
    rcases runEvent_run_cases ((step_of_schedule_cons hsched).symm.trans h) with ⟨rom, rfl, ht⟩ | hrun
    · exact .inl ⟨rom, rest, rfl, ht⟩
    · exact .inr hrun

/-- A fault on record has one of the codes 1 to 4 (60_exceptions.md R1000). -/
theorem FaultRecorded.code_bounds {s : State} (h : FaultRecorded s) :
    1 ≤ s.faultCause.toNat ∧ s.faultCause.toNat ≤ 4 := by
  rcases h.1 with e | e | e | e <;> simp [e]

/-- Settles O51: a step that changes the run state is a Reset, or a CpuStep of a Running core that faults. -/
theorem onlyResetLeavesHalted : Obligations.OnlyResetLeavesHalted := by
  intro s t h
  rcases step_run_cases h with ⟨rom, rest, hsched, rfl⟩ | hsame | ⟨hrun, hrec⟩
  · rcases State.resetWith_cases { s with schedule := rest } rom with ⟨hlen, e⟩ | ⟨hlen, e⟩ <;> rw [e]
    · exact ⟨fun _ _ => ⟨rom, rest, hsched, hlen, rfl⟩, fun _ ht => (by cases ht)⟩
    · exact ⟨fun _ ht => (by cases ht), fun _ _ => .inr ⟨rom, rest, hsched, hlen⟩⟩
  · exact ⟨fun hs ht => by simp [hs, ht] at hsame, fun hs ht => by simp [hs, ht] at hsame⟩
  · exact ⟨fun hs => by simp [hrun] at hs, fun _ _ => .inl hrec.code_bounds⟩

/-! ### Which unit an instruction writes -/

/-- The units of state that no instruction but their own writers change, whether or not it faults. -/
structure OwnWriters (i : Instr) (s t : State) : Prop where
  /-- 10_state.md R102. -/
  regs : ∀ r, ¬ MayWriteReg i r → t.readV r = s.readV r
  /-- 10_state.md R110. -/
  index : (∀ nnn, i ≠ .ldI nnn) → (∀ x, i ≠ .addIVx x) → (∀ x, i ≠ .ldFVx x) → t.i = s.i
  /-- 10_state.md R121. -/
  stack : (∀ nnn, i ≠ .call nnn) → t.stack = s.stack
  /-- 10_state.md R120. -/
  sp : (∀ nnn, i ≠ .call nnn) → i ≠ .ret → t.sp = s.sp
  /-- 10_state.md R125, R130. -/
  display : i ≠ .cls → (∀ x y n, i ≠ .drw x y n) → t.fb = s.fb ∧ t.dirty = s.dirty
  /-- 10_state.md R138. -/
  delay : (∀ x, i ≠ .ldDTVx x) → t.delay = s.delay
  /-- 10_state.md R138. -/
  sound : (∀ x, i ≠ .ldSTVx x) → t.sound = s.sound
  /-- 10_state.md R150, R151. -/
  wait : (∀ x, i ≠ .ldVxK x) → t.wait = s.wait ∧ t.waitSnap = s.waitSnap
  /-- 42_alu.md R670 (log 2). -/
  draws : (∀ x kk, i ≠ .rnd x kk) → t.draws = s.draws

/-- An instruction that writes none of these units but its own registers. -/
theorem OwnWriters.of_regs {i : Instr} {s t : State} (hv : ∀ r, ¬ MayWriteReg i r → t.readV r = s.readV r)
    (h : ∃ v pc mem, t = { s with v := v, pc := pc, mem := mem }) : OwnWriters i s t := by
  obtain ⟨v, pc, mem, rfl⟩ := h
  exact ⟨hv, fun _ _ _ => rfl, fun _ => rfl, fun _ _ => rfl, fun _ _ => ⟨rfl, rfl⟩, fun _ => rfl, fun _ => rfl,
    fun _ => ⟨rfl, rfl⟩, fun _ => rfl⟩

theorem OwnWriters.of_skip (i : Instr) (s : State) (c : Bool) : OwnWriters i s (s.advance.skipIf c) :=
  .of_regs (fun r _ => State.readV_congr (State.skipIf_v s.advance c) r) (by cases c <;> exact ⟨_, _, _, rfl⟩)

theorem OwnWriters.of_takeFault (i : Instr) (s : State) (k : FaultKind) (w : Word) (a : Nat) :
    OwnWriters i s (s.takeFault k w a) :=
  ⟨fun _ _ => rfl, fun _ _ _ => rfl, fun _ => rfl, fun _ _ => rfl, fun _ _ => ⟨rfl, rfl⟩, fun _ => rfl,
    fun _ => rfl, fun _ => ⟨rfl, rfl⟩, fun _ => rfl⟩

theorem State.readV_writeV_of_ne (s : State) {r q : Reg} (b : Byte) (h : q ≠ r) :
    (s.writeV r b).readV q = s.readV q := by
  rw [State.readV_writeV, if_neg h]

theorem State.readV_writeResult_of_ne (s : State) {x q : Reg} (b : Byte) (f : Bool) (h : ¬ (q = x ∨ q = VF)) :
    (s.writeResult x b f).readV q = s.readV q := by
  obtain ⟨hx, hf⟩ := not_or.mp h
  rw [State.readV_writeResult, if_neg hf, if_neg hx]

/-- A register above the last one loaded keeps its value (43_index_memory.md R750). -/
theorem State.readV_writeRegs_of_lt (s : State) {bs : List Byte} {q : Reg} (h : bs.length ≤ q.val) :
    (s.writeRegs bs).readV q = s.readV q := by
  rw [State.readV_writeRegs, List.getElem?_eq_none h, Option.getD_none]

/-- An instruction whose own check passes writes its own units only. Where it writes a unit other than its registers,
the premise of that unit's clause excludes the instruction, and the other clauses hold by the update. -/
theorem exec_ownWriters {i : Instr} {s : State} (hc : ¬ OwnCheckFails i s) :
    ∃ t, exec i s = .next t ∧ OwnWriters i s t := by
  cases i with
  | ldImm | addImm | ldReg | orReg | andReg | xorReg | ldVxDT =>
    exact ⟨_, rfl, .of_regs (fun _ hr => State.readV_writeV_of_ne s.advance _ hr) ⟨_, _, _, rfl⟩⟩
  | addReg | subReg | shr | subnReg | shl =>
    exact ⟨_, rfl, .of_regs (fun _ hr => State.readV_writeResult_of_ne s.advance _ _ hr) ⟨_, _, _, rfl⟩⟩
  | seImm | sneImm | seReg | sneReg | skp | sknp => exact ⟨_, rfl, .of_skip _ s _⟩
  | jp | jpV0 => exact ⟨_, rfl, .of_regs (fun _ _ => rfl) ⟨_, _, _, rfl⟩⟩
  | ldBVx x =>
    exact ⟨_, exec_ldBVx_store x s (access_le_of_check hc rfl), .of_regs (fun _ _ => rfl) ⟨_, _, _, rfl⟩⟩
  | storeRegs x =>
    exact ⟨_, exec_storeRegs_store x s (access_le_of_check hc rfl), .of_regs (fun _ _ => rfl) ⟨_, _, _, rfl⟩⟩
  | loadRegs x =>
    refine ⟨_, exec_loadRegs_load x s (access_le_of_check hc rfl),
      .of_regs (fun r hr => State.readV_writeRegs_of_lt s.advance ?_) ⟨_, _, _, rfl⟩⟩
    have hlt : x < r := lt_of_not_ge hr
    simpa using Nat.succ_le_of_lt hlt
  | call nnn => exact ⟨_, exec_call_push nnn s (sp_lt_of_check hc), by constructor <;> simp [State.readV]⟩
  | ret => exact ⟨_, exec_ret_pop s (sp_pos_of_check hc), by constructor <;> simp [State.readV]⟩
  | ldI | addIVx | ldFVx | cls | ldDTVx | ldSTVx | ldVxK => exact ⟨_, rfl, by constructor <;> simp [State.readV]⟩
  | rnd x kk =>
    refine ⟨_, rfl, ?_⟩
    constructor
    case regs => exact fun _ hr => State.readV_writeV_of_ne s.advance _ hr
    all_goals simp
  | drw x y n =>
    refine ⟨_, exec_drw_draw x y n s (drw_access_le_of_check hc), ?_⟩
    constructor
    case regs => exact fun _ hr => State.readV_writeV_of_ne _ _ hr
    all_goals simp

theorem ownWriters_of_exec {i : Instr} {s t : State} (h : exec i s = .next t) : OwnWriters i s t := by
  rcases exec_cases h with ⟨_, k, w, a, rfl⟩ | ⟨hc, _⟩
  · exact .of_takeFault i s k w a
  · obtain ⟨t', e, hown⟩ := exec_ownWriters hc
    cases e.symm.trans h
    exact hown

/-- Settles O52: VF is one of the registers, and no fault writes it. -/
theorem onlyListedInstructionsWriteVF : Obligations.OnlyListedInstructionsWriteVF :=
  fun _ _ _ h hvf => (ownWriters_of_exec h).regs VF hvf

/-- Only an instruction whose own check fails writes the run state and the fault registers (60_exceptions.md R1010). -/
theorem exec_keeps_run_and_faults {i : Instr} {s t : State} (h : exec i s = .next t) (hc : ¬ OwnCheckFails i s) :
    t.run = s.run ∧ t.faultCause = s.faultCause ∧ t.faultPc = s.faultPc ∧ t.faultWord = s.faultWord ∧
      t.faultAddr = s.faultAddr := by
  rcases exec_cases h with ⟨hf, _⟩ | ⟨_, hdone⟩
  · exact absurd hf hc
  · rw [hdone.frame]
    exact ⟨rfl, rfl, rfl, rfl, rfl⟩

/-- No instruction writes the keys, load_status, the font or the schedule. -/
theorem exec_keeps_host_state {i : Instr} {s t : State} (h : exec i s = .next t) :
    t.keys = s.keys ∧ t.loadStatus = s.loadStatus ∧ t.font = s.font ∧ t.schedule = s.schedule := by
  rcases exec_cases h with ⟨_, _, _, _, rfl⟩ | ⟨_, hdone⟩
  · exact ⟨rfl, rfl, rfl, rfl⟩
  · rw [hdone.frame]
    exact ⟨rfl, rfl, rfl, rfl⟩

/-- Settles O54: the units with writers of their own, then the fields that only a fault writes, then those that no
instruction writes. -/
theorem eachUnitHasItsOwnWriters : Obligations.EachUnitHasItsOwnWriters := by
  intro i s t h
  obtain ⟨regs, index, stack, sp, display, delay, sound, wait, draws⟩ := ownWriters_of_exec h
  exact ⟨regs, index, fun hcall => ⟨stack hcall, sp hcall⟩, display, delay, sound, wait,
    exec_keeps_run_and_faults h, draws, exec_keeps_host_state h⟩

/-! ### The level ports (10_state.md R170) -/

/-- Bit r*64 + c of `fb_out` is cell (r, c) (44_display.md R851). -/
theorem State.fbOut_getLsbD (s : State) (r : Fin 32) (c : Fin 64) :
    s.fbOut.getLsbD (r.val * 64 + c.val) = cellAt s.fb r c := by
  have hk : r.val * 64 + c.val < 2048 := by omega
  have hrow : wrapRow ((r.val * 64 + c.val) / 64) = r := Fin.ext (by simp only [wrapRow]; omega)
  have hcol : wrapCol (r.val * 64 + c.val) = c := Fin.ext (by simp only [wrapCol]; omega)
  simp only [State.fbOut, BitVec.getLsbD_ofFnLE, hk, dif_pos, hrow, hcol]

theorem State.runState_eq_one (s : State) : s.runState = 1 ↔ s.run = .halted := by
  unfold State.runState
  cases s.run <;> decide

theorem State.soundOn_iff (s : State) : s.soundOn = true ↔ s.sound.toNat ≠ 0 := by
  simp [State.soundOn, BitVec.toNat_eq]

/-- Settles O45: `fb_out`, `run_state`, `waiting` and `sound_on` by their lemmas, the other ports are the fields. -/
theorem portsShowTheState : Obligations.PortsShowTheState :=
  fun s => ⟨s.fbOut_getLsbD, s.runState_eq_one, Option.isSome_iff_ne_none, s.soundOn_iff, rfl, rfl, rfl⟩

end Sys2Proof.Machine

/-! # Memory: stores, accesses out of range, and what Reset loads (20_memory.md)

`exec_access_fault` gives the one fault of the four accesses through I, `exec_mem_of_not_store` names the two
instructions that write memory, and the `byteAt` lemmas say what a store and a Reset leave at each address. -/

namespace Sys2Proof.Machine

/-- Settles O56: a CpuStep stores inside the address space or not at all, and Reset loads a program that fits. -/
theorem stepKeepsMemoryCanonical : Obligations.StepKeepsMemoryCanonical :=
  fun _ _ hs h => memCanonical_keptByEvents.step hs h

/-! ### Accesses out of range (R220) -/

/-- Each of the four accesses through I that reaches above 4095 takes the fault, with the instruction's own word. -/
theorem exec_access_fault {i : Instr} {s : State} {n : Nat} (hn : accessLength i = some n)
    (hi : 4095 < s.i.toNat + n - 1) :
    exec i s = .next (s.takeFault .addressOutOfRange (encode i) (if s.i.toNat > 4095 then s.i.toNat else 4096)) := by
  cases i <;> simp only [accessLength, reduceCtorEq, Option.some.injEq] at hn
  case drw x y m =>
    obtain ⟨hm, rfl⟩ : m ≠ 0 ∧ m = n := by simpa using hn
    exact exec_drw_fault x y m s hm hi
  case ldBVx x => exact exec_ldBVx_fault x s (by omega)
  case storeRegs x => exact exec_storeRegs_fault x s (by omega)
  case loadRegs x => exact exec_loadRegs_fault x s (by omega)

/-- Settles O31: the access takes the fault, and fault entry is the frame `Faulted`. -/
theorem accessOutOfRangeFaults : Obligations.AccessOutOfRangeFaults :=
  fun i s _ _ hn hi => ⟨_, exec_access_fault hn hi, faulted_takeFault_firstBad s (encode i) s.i⟩

/-! ### Stores (R201, R211) -/

/-- An instruction that is no store and whose own check passes keeps memory. -/
theorem exec_mem_of_not_store {i : Instr} {s : State} (hc : ¬ OwnCheckFails i s) (hbcd : ∀ x, i ≠ .ldBVx x)
    (hregs : ∀ x, i ≠ .storeRegs x) : ∃ t, exec i s = .next t ∧ t.mem = s.mem := by
  cases i with
  | ldBVx x => exact absurd rfl (hbcd x)
  | storeRegs x => exact absurd rfl (hregs x)
  | seImm | sneImm | seReg | sneReg | skp | sknp => exact ⟨_, rfl, s.advance.skipIf_mem _⟩
  | call nnn => exact ⟨_, exec_call_push nnn s (sp_lt_of_check hc), rfl⟩
  | ret => exact ⟨_, exec_ret_pop s (sp_pos_of_check hc), rfl⟩
  | drw x y n => exact ⟨_, exec_drw_draw x y n s (drw_access_le_of_check hc), rfl⟩
  | loadRegs x => exact ⟨_, exec_loadRegs_load x s (access_le_of_check hc rfl), rfl⟩
  | _ => exact ⟨_, rfl, rfl⟩

/-- Settles O53: a fault writes no memory, and an instruction that completes writes it only if it is a store. -/
theorem onlyStoresWriteMemory : Obligations.OnlyStoresWriteMemory := by
  intro i s t h hbcd hregs
  obtain ⟨_, _, hfont, _⟩ := exec_keeps_host_state h
  have hmem : t.mem = s.mem := by
    rcases exec_cases h with ⟨_, _, _, _, rfl⟩ | ⟨hc, _⟩
    · rfl
    · obtain ⟨t', e, hmem⟩ := exec_mem_of_not_store hc hbcd hregs
      cases e.symm.trans h
      exact hmem
  exact ⟨hmem, sameBytes_of_eq hfont hmem⟩

/-- A memory that the range V0..Vx was stored into at I holds V[j] at I + j (43_index_memory.md R745). -/
theorem read_writeBytes_readRegs {s : State} {x j : Reg} (hs : MemCanonical s) (hi : s.i.toNat + x.val ≤ 4095)
    (hj : j ≤ x) :
    Memory.read s.font (Memory.writeBytes s.font s.mem s.i.toNat (s.readRegs x)) (s.i.toNat + j.val) =
      s.readV j := by
  have hlen := readRegs_length s x
  have hfits : s.i.toNat + (s.readRegs x).length ≤ Config.memSize := by
    rw [hlen, Config.memSize]
    omega
  have hlt : j.val < (s.readRegs x).length := by
    rw [hlen]
    exact Nat.lt_succ_of_le hj
  rw [Memory.read_writeBytes_inside hs hfits hlt, readRegs_getElem]

/-- Settles O32: the fetch at I is in range and joins the bytes at I and I + 1, which hold V0 and V1. -/
theorem fetchSeesStoredBytes : Obligations.FetchSeesStoredBytes := by
  intro s hs hi
  refine ⟨_, exec_storeRegs_store 1 s hi, ?_⟩
  have hV0 := read_writeBytes_readRegs (x := 1) (j := 0) hs hi (by decide)
  have hV1 := read_writeBytes_readRegs (x := 1) (j := 1) hs hi (by decide)
  rcases State.fetch_cases { s with
    pc := s.i, mem := Memory.writeBytes s.font s.mem s.i.toNat (s.readRegs 1) } with ⟨_, e⟩ | ⟨hpc, _⟩
  · rw [← hV0, ← hV1]
    exact e
  · simp only at hpc
    omega

/-! ### What Reset loads (R230) -/

theorem unlistedByte_of_lt (font : Font) {a : Nat} (ha : a < 80) : unlistedByte font a = font[a] := dif_pos ha

theorem unlistedByte_of_ge (font : Font) {a : Nat} (ha : 80 ≤ a) : unlistedByte font a = 0 :=
  dif_neg (Nat.not_lt_of_le ha)

/-- A program that fits lies in memory byte by byte from 0x200 on. -/
theorem State.byteAt_resetWith_inside (s : State) {rom : List Byte} (hlen : rom.length ≤ 3584) {j : Nat}
    (hj : j < rom.length) : (s.resetWith rom).byteAt (0x200 + j) = rom[j] := by
  rcases State.resetWith_cases s rom with ⟨_, e⟩ | ⟨hlong, _⟩
  · have hfits : 0x200 + rom.length ≤ Config.memSize := by
      rw [Config.memSize]
      omega
    rw [e]
    exact Memory.read_writeBytes_inside (m := []) rfl hfits hj
  · omega

/-- After Reset an address outside the program reads as an unlisted one. -/
theorem State.byteAt_resetWith_outside (s : State) {rom : List Byte} {a : Nat}
    (ha : a < 0x200 ∨ 0x200 + rom.length ≤ a) : (s.resetWith rom).byteAt a = unlistedByte s.font a := by
  rcases State.resetWith_cases s rom with ⟨_, e⟩ | ⟨_, e⟩ <;> rw [e]
  · exact Memory.read_writeBytes_other (m := []) ha
  · rfl

/-- Settles O46: the program lies where it was loaded, and every other address reads as FONT below 80 and as 0 from
there on. -/
theorem resetLoadsFontAndProgram : Obligations.ResetLoadsFontAndProgram := by
  intro s rom rest hsched hlen
  refine ⟨_, step_of_schedule_cons hsched, fun a ha => ?font, fun a ha ha' => ?gap, fun j hj => ?program,
    fun a ha _ => ?tail⟩
  case font => rw [State.byteAt_resetWith_outside _ (.inl (by omega)), unlistedByte_of_lt _ ha]
  case gap => rw [State.byteAt_resetWith_outside _ (.inl ha'), unlistedByte_of_ge _ ha]
  case program => exact State.byteAt_resetWith_inside _ hlen hj
  case tail => rw [State.byteAt_resetWith_outside _ (.inr ha), unlistedByte_of_ge _ (by omega)]

end Sys2Proof.Machine

/-! # Encoding (30_encoding.md)

The opcode table is taken as the description of the decoder. `takes_wordMask` to `takes_opKKMask` read a row's mask and
pattern as values of the fields, so that a row says what its words decode to (`decode_of_takes`) and that they encode
back (`encode_build_of_takes`); a word that no row takes is one of R311 (`illegalWord_of_no_row`), and those are
rejected (`decode_error_of_illegalWord`). -/

namespace Sys2Proof

/-! ### A word is made of its fields (R301) -/

theorem opField_lt (w : Word) : opField w < 16 := (w.extractLsb' 12 4).isLt

theorem nField_lt (w : Word) : nField w < 16 := (w.extractLsb' 0 4).isLt

theorem kkField_toNat_eq_nibbles (w : Word) : (kkField w).toNat = (yField w).val * 16 + nField w := by
  rw [kkField_toNat, yField_val, nField_eq]
  omega

theorem word_toNat_eq_fields (w : Word) :
    w.toNat = opField w * 4096 + (xField w).val * 256 + (yField w).val * 16 + nField w := by
  rw [opField_eq, xField_val, yField_val, nField_eq]
  omega

/-- A word of format NNN is its own two fields joined. -/
theorem wordNNN_eq {w : Word} {op : BitVec 4} (hop : opField w = op.toNat) : op ++ nnnField w = w := by
  apply BitVec.eq_of_toNat_eq
  rw [wordNNN_toNat, nnnField_toNat, ← hop, opField_eq]
  omega

/-- A word of format XKK or XNN is its own three fields joined. -/
theorem wordXKK_eq {w : Word} {op : BitVec 4} {kk : Byte} (hop : opField w = op.toNat)
    (hkk : (kkField w).toNat = kk.toNat) : op ++ regBits (xField w) ++ kk = w := by
  apply BitVec.eq_of_toNat_eq
  rw [wordXKK_toNat, xField_val, ← hkk, kkField_toNat, ← hop, opField_eq]
  omega

/-- A word of format XYN is its own four fields joined. -/
theorem wordXYN_eq {w : Word} {op n : BitVec 4} (hop : opField w = op.toNat) (hn : nField w = n.toNat) :
    op ++ regBits (xField w) ++ regBits (yField w) ++ n = w := by
  apply BitVec.eq_of_toNat_eq
  rw [wordXYN_toNat, ← hop, ← hn, word_toNat_eq_fields w]

/-! ### A mask acts on each field alone -/

theorem opField_and (w m : Word) : opField (w &&& m) = opField w &&& opField m := by
  rw [opField, BitVec.extractLsb'_and, BitVec.toNat_and, opField, opField]

theorem xField_and (w m : Word) : (xField (w &&& m)).val = (xField w).val &&& (xField m).val := by
  simp only [xField, BitVec.extractLsb'_and, BitVec.val_toFin, BitVec.toNat_and]

theorem yField_and (w m : Word) : (yField (w &&& m)).val = (yField w).val &&& (yField m).val := by
  simp only [yField, BitVec.extractLsb'_and, BitVec.val_toFin, BitVec.toNat_and]

theorem nField_and (w m : Word) : nField (w &&& m) = nField w &&& nField m := by
  rw [nField, BitVec.extractLsb'_and, BitVec.toNat_and, nField, nField]

theorem and_toNat_eq_fields (w m : Word) : (w &&& m).toNat =
    (opField w &&& opField m) * 4096 + ((xField w).val &&& (xField m).val) * 256 +
      ((yField w).val &&& (yField m).val) * 16 + (nField w &&& nField m) := by
  rw [word_toNat_eq_fields, opField_and, xField_and, yField_and, nField_and]

theorem opField_and_ones (w : Word) : opField w &&& 15 = opField w :=
  congrArg BitVec.toNat (BitVec.and_allOnes (x := w.extractLsb' 12 4))

theorem yField_and_ones (w : Word) : (yField w).val &&& 15 = (yField w).val :=
  congrArg BitVec.toNat (BitVec.and_allOnes (x := w.extractLsb' 4 4))

theorem nField_and_ones (w : Word) : nField w &&& 15 = nField w :=
  congrArg BitVec.toNat (BitVec.and_allOnes (x := w.extractLsb' 0 4))

theorem and_opMask_toNat (w : Word) : (w &&& 0xF000#16).toNat = opField w * 4096 := by
  obtain ⟨hop, hx, hy, hn⟩ : opField 0xF000#16 = 15 ∧ (xField 0xF000#16).val = 0 ∧
    (yField 0xF000#16).val = 0 ∧ nField 0xF000#16 = 0 := by decide
  rw [and_toNat_eq_fields, hop, hx, hy, hn, opField_and_ones]
  simp

theorem and_opNMask_toNat (w : Word) : (w &&& 0xF00F#16).toNat = opField w * 4096 + nField w := by
  obtain ⟨hop, hx, hy, hn⟩ : opField 0xF00F#16 = 15 ∧ (xField 0xF00F#16).val = 0 ∧
    (yField 0xF00F#16).val = 0 ∧ nField 0xF00F#16 = 15 := by decide
  rw [and_toNat_eq_fields, hop, hx, hy, hn, opField_and_ones, nField_and_ones]
  simp

theorem and_opKKMask_toNat (w : Word) : (w &&& 0xF0FF#16).toNat = opField w * 4096 + (kkField w).toNat := by
  obtain ⟨hop, hx, hy, hn⟩ : opField 0xF0FF#16 = 15 ∧ (xField 0xF0FF#16).val = 0 ∧
    (yField 0xF0FF#16).val = 15 ∧ nField 0xF0FF#16 = 15 := by decide
  rw [and_toNat_eq_fields, hop, hx, hy, hn, opField_and_ones, yField_and_ones, nField_and_ones,
    kkField_toNat_eq_nibbles]
  simp [Nat.add_assoc]

/-! ### Which words a row takes, by its mask (R305) -/

theorem takes_eq_decide (m p : Word) (f : Word → Instr) (w : Word) :
    OpcodeRow.takes ⟨m, p, f⟩ w = decide ((w &&& m).toNat = p.toNat) := by
  rw [Bool.eq_iff_iff, decide_eq_true_iff, OpcodeRow.takes, beq_iff_eq, BitVec.toNat_inj]

/-- Format N. -/
@[simp] theorem takes_wordMask (p : Word) (f : Word → Instr) (w : Word) :
    OpcodeRow.takes ⟨0xFFFF#16, p, f⟩ w = decide (w = p) := by
  have h : w &&& 0xFFFF#16 = w := BitVec.and_allOnes
  rw [takes_eq_decide, h, decide_eq_decide, BitVec.toNat_inj]

/-- Formats NNN and XKK, and the row of DRW. -/
@[simp] theorem takes_opMask {p : Word} (hp : p &&& 0xF000#16 = p) (f : Word → Instr) (w : Word) :
    OpcodeRow.takes ⟨0xF000#16, p, f⟩ w = decide (opField w = p.toNat / 4096) := by
  have hpat := congrArg BitVec.toNat hp
  rw [and_opMask_toNat, opField_eq] at hpat
  rw [takes_eq_decide, and_opMask_toNat, decide_eq_decide]
  omega

/-- Format XYN with a sub-opcode n. -/
@[simp] theorem takes_opNMask {p : Word} (hp : p &&& 0xF00F#16 = p) (f : Word → Instr) (w : Word) :
    OpcodeRow.takes ⟨0xF00F#16, p, f⟩ w = decide (opField w = p.toNat / 4096 ∧ nField w = p.toNat % 16) := by
  have hpat := congrArg BitVec.toNat hp
  rw [and_opNMask_toNat, opField_eq, nField_eq] at hpat
  rw [takes_eq_decide, and_opNMask_toNat, nField_eq, decide_eq_decide]
  omega

/-- Format XNN, with a sub-opcode kk. -/
@[simp] theorem takes_opKKMask {p : Word} (hp : p &&& 0xF0FF#16 = p) (f : Word → Instr) (w : Word) :
    OpcodeRow.takes ⟨0xF0FF#16, p, f⟩ w =
      decide (opField w = p.toNat / 4096 ∧ (kkField w).toNat = p.toNat % 256) := by
  have hpat := congrArg BitVec.toNat hp
  rw [and_opKKMask_toNat, opField_eq, kkField_toNat] at hpat
  rw [takes_eq_decide, and_opKKMask_toNat, kkField_toNat, decide_eq_decide]
  omega

/-! ### What a row says of its words -/

theorem decode_of_takes {w : Word} {r : OpcodeRow} (hr : r ∈ opcodeTable) (h : r.takes w = true) :
    decode w = .ok (r.build w) := by
  have hcls : decode 0x00E0#16 = .ok .cls := rfl
  have hret : decode 0x00EE#16 = .ok .ret := rfl
  fin_cases hr <;> simp at h
  · simp [h, hcls]
  · simp [h, hret]
  all_goals simp [decode, h]

/-- The fields that a row does not fix are the operands, so the encoder puts the word together again. -/
theorem encode_build_of_takes {w : Word} {r : OpcodeRow} (hr : r ∈ opcodeTable) (h : r.takes w = true) :
    (r.build w).WellFormed = true ∧ encode (r.build w) = w := by
  have hmod : nField w % 16 = nField w := Nat.mod_eq_of_lt (nField_lt w)
  have hle : nField w ≤ 15 := Nat.le_of_lt_succ (nField_lt w)
  fin_cases hr <;> simp at h
  all_goals simp [Instr.WellFormed, encode, wordNNN_eq, wordXKK_eq, wordXYN_eq, h, hmod, hle]

/-! ### The words that no row takes (R311) -/

/-- The illegal words of R311, family by family. -/
def IllegalWord (w : Word) : Prop :=
  (opField w = 0x0 ∧ w.toNat ≠ 0x00E0 ∧ w.toNat ≠ 0x00EE) ∨
  (opField w = 0x5 ∧ nField w ≠ 0) ∨
  (opField w = 0x8 ∧ ((8 ≤ nField w ∧ nField w ≤ 0xD) ∨ nField w = 0xF)) ∨
  (opField w = 0x9 ∧ nField w ≠ 0) ∨
  (opField w = 0xE ∧ (kkField w).toNat ≠ 0x9E ∧ (kkField w).toNat ≠ 0xA1) ∨
  (opField w = 0xF ∧ (kkField w).toNat ≠ 0x07 ∧ (kkField w).toNat ≠ 0x0A ∧ (kkField w).toNat ≠ 0x15 ∧
    (kkField w).toNat ≠ 0x18 ∧ (kkField w).toNat ≠ 0x1E ∧ (kkField w).toNat ≠ 0x29 ∧ (kkField w).toNat ≠ 0x33 ∧
    (kkField w).toNat ≠ 0x55 ∧ (kkField w).toNat ≠ 0x65)

/-- The other ten families have a row that takes every word of theirs. -/
theorem illegalWord_of_no_row {w : Word} (h : ∀ r ∈ opcodeTable, ¬ r.takes w = true) : IllegalWord w := by
  have hlt := opField_lt w
  have hn := nField_lt w
  simp only [opcodeTable, opcodeRows1, opcodeRows2, opcodeRows3] at h
  simp [← BitVec.toNat_inj] at h
  interval_cases hop : opField w <;> simp [IllegalWord, hop] at h ⊢
  · exact h       -- family 0x0
  · exact h.2.2   -- family 0x5
  · omega         -- family 0x8: n < 16 and none of the nine sub-opcodes
  · exact h.2.2   -- family 0x9
  · exact h.2.2   -- family 0xE
  · exact h.2.2   -- family 0xF

theorem decode_error_of_illegalWord {w : Word} (h : IllegalWord w) : ∃ e, decode w = .error e := by
  rcases h with ⟨hop, hcls, hret⟩ | ⟨hop, hn⟩ | ⟨hop, hn⟩ | ⟨hop, hn⟩ | ⟨hop, hkk⟩ | ⟨hop, hkk⟩
  · have hne : w ≠ 0x00E0#16 ∧ w ≠ 0x00EE#16 := ⟨ne_of_apply_ne BitVec.toNat hcls, ne_of_apply_ne BitVec.toNat hret⟩
    exact ⟨.family0, by simp [decode, hop, hne]⟩
  · exact ⟨.family5, by simp [decode, hop, hn]⟩
  · have hne : nField w ≠ 0x0 ∧ nField w ≠ 0x1 ∧ nField w ≠ 0x2 ∧ nField w ≠ 0x3 ∧ nField w ≠ 0x4 ∧ nField w ≠ 0x5 ∧
        nField w ≠ 0x6 ∧ nField w ≠ 0x7 ∧ nField w ≠ 0xE := by omega
    exact ⟨.family8, by simp [decode, hop, hne]⟩
  · exact ⟨.family9, by simp [decode, hop, hn]⟩
  · exact ⟨.familyE, by simp [decode, hop, hkk]⟩
  · exact ⟨.familyF, by simp [decode, hop, hkk]⟩

/-- What the decoder does with any word: what the row that takes it says, or the rejection of a word of R311. -/
theorem decode_cases (w : Word) :
    (∃ r ∈ opcodeTable, r.takes w = true ∧ decode w = .ok (r.build w)) ∨
      (IllegalWord w ∧ ∃ e, decode w = .error e) := by
  by_cases h : ∃ r ∈ opcodeTable, r.takes w = true
  · obtain ⟨r, hr, ht⟩ := h
    exact .inl ⟨r, hr, ht, decode_of_takes hr ht⟩
  · have hw : IllegalWord w := illegalWord_of_no_row fun r hr ht => h ⟨r, hr, ht⟩
    exact .inr ⟨hw, decode_error_of_illegalWord hw⟩

theorem decode_error_iff (w : Word) : (∃ e, decode w = .error e) ↔ IllegalWord w := by
  refine ⟨fun ⟨e, he⟩ => ?_, decode_error_of_illegalWord⟩
  rcases decode_cases w with ⟨r, _, _, hok⟩ | ⟨hw, _⟩
  · cases hok.symm.trans he
  · exact hw

/-! ### The round trips (R301, R305) -/

/-- Settles O1: the fields of an encoding are the operands, and the decoder reads those fields. -/
theorem decodeOfEncodeGivesTheInstructionBack : Obligations.DecodeOfEncodeGivesTheInstructionBack := by
  intro i hi
  cases i with
  | cls | ret => rfl
  | drw x y n =>
    have hn : n ≤ 15 := of_decide_eq_true hi
    have hmod : n % 16 = n := Nat.mod_eq_of_lt (Nat.lt_succ_of_le hn)
    simp [encode, decode, hmod]
  | _ => simp [encode, decode]

/-- Settles O2: a word that decodes is taken by a row, and every row encodes back to the words it takes. -/
theorem encodeOfDecodeGivesTheWordBack : Obligations.EncodeOfDecodeGivesTheWordBack := by
  intro w i h
  rcases decode_cases w with ⟨r, hr, ht, hok⟩ | ⟨_, _, herr⟩
  · obtain rfl : r.build w = i := Except.ok.inj (hok.symm.trans h)
    exact encode_build_of_takes hr ht
  · cases herr.symm.trans h

/-! ### The two forms of the decoder (R305, R306) -/

/-- Settles O3: the row that the table finds takes the word, so the decoder answers as it says; if no row is found,
the word is illegal. -/
theorem familyDecoderEqualsOpcodeTable : Obligations.FamilyDecoderEqualsOpcodeTable := by
  intro w
  unfold decodeByTable
  cases hfind : opcodeTable.find? fun r => r.takes w with
  | some r =>
    have ht : r.takes w = true := by simpa using List.find?_some hfind
    rw [decode_of_takes (List.mem_of_find?_eq_some hfind) ht]
    rfl
  | none =>
    obtain ⟨e, he⟩ := decode_error_of_illegalWord (illegalWord_of_no_row (List.find?_eq_none.1 hfind))
    rw [he]
    rfl

/-- Two rows whose patterns differ in a bit that both masks keep. -/
def OpcodeRow.Disjoint (r q : OpcodeRow) : Prop := r.pattern &&& q.mask ≠ q.pattern &&& r.mask

theorem OpcodeRow.Disjoint.not_takes_both {r q : OpcodeRow} (h : r.Disjoint q) {w : Word} (hr : r.takes w = true)
    (hq : q.takes w = true) : False := by
  rw [OpcodeRow.takes, beq_iff_eq] at hr hq
  apply h
  rw [← hr, ← hq, BitVec.and_assoc, BitVec.and_assoc, BitVec.and_comm r.mask]

theorem opcodeTable_pairwise_disjoint : opcodeTable.Pairwise OpcodeRow.Disjoint := by
  unfold OpcodeRow.Disjoint
  decide

theorem length_le_one_of_pairwise_false {α : Type} : ∀ {l : List α}, l.Pairwise (fun _ _ => False) → l.length ≤ 1
  | [], _ => Nat.zero_le 1
  | [_], _ => Nat.le_refl 1
  | _ :: b :: _, h => (List.rel_of_pairwise_cons h (List.mem_cons_self (a := b))).elim

/-- Settles O4: any two rows are disjoint, so of the rows that take one word there are no two. -/
theorem opcodeRowsDoNotOverlap : Obligations.OpcodeRowsDoNotOverlap := by
  refine ⟨rfl, fun w => length_le_one_of_pairwise_false ?_⟩
  exact List.pairwise_filter.2 (opcodeTable_pairwise_disjoint.imp fun h => h.not_takes_both)

/-! ### Illegal words and fixed words -/

/-- Settles O5: the rejected words are those of `IllegalWord`, which is R311's list with its fields as numbers. -/
theorem illegalWordsAreThoseListed : Obligations.IllegalWordsAreThoseListed := by
  intro w
  simpa only [IllegalWord, opField_eq, nField_eq, kkField_toNat] using decode_error_iff w

/-- Settles O6, by running the decoder on the twenty words. -/
theorem writtenOutWordsDecode : Obligations.WrittenOutWordsDecode := by
  unfold Obligations.WrittenOutWordsDecode
  decide

end Sys2Proof

/-! # One CpuStep: fetch, decode, faults and pc (40_cycle.md)

`step_cases_of_fetching` says what a fetching step does with the word at pc, `exec_run_iff` when an instruction stops
the core, and `exec_pc` where an instruction that completes leaves pc. -/

namespace Sys2Proof.Machine

/-! ### A fetching step (R400, R401, R402) -/

/-- The big-endian word at pc (20_memory.md R210). -/
def fetchedWord (u : State) : Word :=
  BitVec.ofNat 16 (256 * (u.byteAt u.pc.toNat).toNat + (u.byteAt (u.pc.toNat + 1)).toNat)

theorem wordOfBytes_eq_fetchedWord (u : State) :
    wordOfBytes (u.byteAt u.pc.toNat) (u.byteAt (u.pc.toNat + 1)) = fetchedWord u := wordOfBytes_eq _ _

theorem eq_fetchedWord {u : State} {w : Word}
    (h : w.toNat = 256 * (u.byteAt u.pc.toNat).toNat + (u.byteAt (u.pc.toNat + 1)).toNat) : w = fetchedWord u := by
  apply BitVec.eq_of_toNat_eq
  rw [h, ← wordOfBytes_eq_fetchedWord, wordOfBytes_toNat]

/-- A fetching step faults on the fetch, faults on an illegal word, or runs the decoded instruction. -/
theorem step_cases_of_fetching {s u : State} (h : CpuStepFrom s u) (hf : Fetching u) :
    (4095 ≤ u.pc.toNat ∧ step s =
      .next (u.takeFault .addressOutOfRange 0 (if u.pc.toNat > 4095 then u.pc.toNat else 4096))) ∨
    (u.pc.toNat ≤ 4094 ∧
      ((∃ r, decode (fetchedWord u) = .error r ∧ step s = .next (u.takeFault .decodeFault (fetchedWord u) 0)) ∨
       (∃ i, decode (fetchedWord u) = .ok i ∧ step s = exec i u))) := by
  obtain ⟨hrun, hwait⟩ := hf
  rw [step_of_cpuStepFrom h, cpuStep_running hrun]
  rcases runningStep_cases u with ⟨x, hx, _⟩ | ⟨_, hpc, e⟩ | ⟨_, hpc, w, hw, hdec⟩
  · cases hwait.symm.trans hx
  · exact .inl ⟨hpc, e⟩
  · obtain rfl : w = fetchedWord u := hw.trans (wordOfBytes_eq_fetchedWord u)
    exact .inr ⟨hpc, hdec⟩

/-! ### Which steps stop the core (R425, R426) -/

/-- The state a CpuStep answers is reached by one of the moves. -/
theorem cpuMove_of_step {s u t : State} (h : CpuStepFrom s u) (hstep : step s = .next t) : CpuMove u t := by
  obtain ⟨t', e, hmove⟩ := cpuStep_move u
  rw [step_of_cpuStepFrom h] at hstep
  cases e.symm.trans hstep
  exact hmove

/-- Settles O49: of the moves of a Running core only fault entry stops it, and fault entry is the frame `Faulted`. -/
theorem faultsArePrecise : Obligations.FaultsArePrecise := by
  intro s u t hfrom hrun hstep hhalt
  cases cpuMove_of_step hfrom hstep with
  | idle hhalted => cases hrun.symm.trans hhalted
  | @waitStep x => cases hrun.symm.trans ((u.waitStep_run x).symm.trans hhalt)
  | @fault k w a _ hrec => exact ⟨k.code, w, BitVec.ofNat 16 a, faulted_takeFault u k w a, hrec.code_bounds⟩
  | complete _ _ hdone =>
    have hsame : t.run = u.run := by rw [hdone.frame]
    cases hrun.symm.trans (hsame.symm.trans hhalt)

/-- An instruction of a Running core stops it exactly when its own check fails (60_exceptions.md R1000). -/
theorem exec_run_iff (i : Instr) {s : State} (hrun : s.run = .running) :
    ∃ t, exec i s = .next t ∧ (t.run = .halted ↔ OwnCheckFails i s) := by
  by_cases hc : OwnCheckFails i s
  · obtain ⟨k, w, a, e, _⟩ := exec_faults hc
    exact ⟨_, e, iff_of_true rfl hc⟩
  · obtain ⟨t, e, hdone⟩ := exec_completes hc
    have hsame : t.run = .running := by rw [hdone.frame, hrun]
    exact ⟨t, e, iff_of_false (by simp [hsame]) hc⟩

/-- A fault of the fetch or of the decoder is one of the listed checks; otherwise the decoded instruction decides, by
its own check. -/
theorem step_run_iff_of_fetching {s u : State} (hfrom : CpuStepFrom s u) (hf : Fetching u) :
    ∃ t, step s = .next t ∧ (t.run = .halted ↔ 4095 ≤ u.pc.toNat ∨ (∃ r, decode (fetchedWord u) = .error r) ∨
      ∃ i, decode (fetchedWord u) = .ok i ∧ OwnCheckFails i u) := by
  rcases step_cases_of_fetching hfrom hf with ⟨hpc, e⟩ | ⟨hpc, ⟨r, hr, e⟩ | ⟨i, hi, e⟩⟩
  · exact ⟨_, e, iff_of_true rfl (.inl hpc)⟩
  · exact ⟨_, e, iff_of_true rfl (.inr (.inl ⟨r, hr⟩))⟩
  · obtain ⟨t, et, hiff⟩ := exec_run_iff i hf.1
    have hin : ¬ 4095 ≤ u.pc.toNat := by omega
    exact ⟨t, e.trans et, by simp [hiff, hin, hi]⟩

/-- Settles O50: the word of the statement is `fetchedWord u`. -/
theorem coreStopsExactlyOnTheFourFaults : Obligations.CoreStopsExactlyOnTheFourFaults :=
  fun _ _ hfrom hf => step_run_iff_of_fetching hfrom hf

/-! ### pc after an instruction (R410, R411) -/

/-- A register names the key of its value modulo 16 (45_keypad_timer.md R906). -/
theorem keyDown_keyOperand (s : State) (a : Byte) :
    s.keyDown (keyOperand a) = s.keys.getLsbD (a.toNat % 16) := by
  simp [State.keyDown, keyOperand]

/-- Where an instruction whose own check passes leaves pc. -/
theorem exec_pc {i : Instr} {s : State} (hc : ¬ OwnCheckFails i s) :
    ∃ t, exec i s = .next t ∧ t.pc = pcAfter i s := by
  cases i with
  | seImm | sneImm | seReg | sneReg => exact ⟨_, rfl, s.advance.skipIf_pc _⟩
  | skp | sknp => exact ⟨_, rfl, by rw [State.skipIf_pc, keyDown_keyOperand]; rfl⟩
  | call nnn => exact ⟨_, exec_call_push nnn s (sp_lt_of_check hc), rfl⟩
  | ret =>
    have hsp : s.sp.val - 1 < 16 := by omega
    exact ⟨_, exec_ret_pop s (sp_pos_of_check hc), by simp [pcAfter, hsp]⟩
  | drw x y n => exact ⟨_, exec_drw_draw x y n s (drw_access_le_of_check hc), rfl⟩
  | ldBVx x => exact ⟨_, exec_ldBVx_store x s (access_le_of_check hc rfl), rfl⟩
  | storeRegs x => exact ⟨_, exec_storeRegs_store x s (access_le_of_check hc rfl), rfl⟩
  | loadRegs x => exact ⟨_, exec_loadRegs_load x s (access_le_of_check hc rfl), rfl⟩
  | _ => exact ⟨_, rfl, rfl⟩

/-- A wait that goes on after a CpuStep leaves pc where it was (45_keypad_timer.md R931). -/
theorem waitStep_pc_of_waiting {s : State} {x : Reg} (h : (s.waitStep x).wait ≠ none) :
    (s.waitStep x).pc = s.pc := by
  rcases s.waitStep_cases x with ⟨_, _, e⟩ | ⟨_, e⟩
  · exact absurd (by rw [e]) h
  · rw [e]

/-- Settles O12: an instruction that leaves the core Running passed its own check and set pc as `exec_pc` says; a
waiting core does not fetch, so that its step is idle or a wait step. -/
theorem pcAfterEveryInstruction : Obligations.PcAfterEveryInstruction := by
  constructor
  · intro i s t _ hexec hrun
    rcases exec_cases hexec with ⟨_, _, _, _, rfl⟩ | ⟨hc, _⟩
    · cases hrun
    · obtain ⟨t', e, hpc⟩ := exec_pc hc
      cases e.symm.trans hexec
      exact hpc
  · intro s u t hfrom hwait hstep hwait'
    cases cpuMove_of_step hfrom hstep with
    | idle => rfl
    | waitStep => exact waitStep_pc_of_waiting hwait'
    | fault hf => exact absurd hf.2 hwait
    | complete hf => exact absurd hf.2 hwait

/-! ### The three outcomes of a fetch -/

/-- Settles O7: the word at pc is in range and legal, which leaves the case that runs its instruction. -/
theorem stepRunsTheDecodedInstruction : Obligations.StepRunsTheDecodedInstruction := by
  intro s u i hfrom hf hpc hdec
  rcases step_cases_of_fetching hfrom hf with ⟨hout, _⟩ | ⟨_, ⟨r, hr, _⟩ | ⟨j, hj, e⟩⟩
  · omega
  · cases hr.symm.trans hdec
  · cases hj.symm.trans hdec
    exact e

/-- Settles O8: out of range only the fetch fault is left. -/
theorem fetchOutOfRangeFaults : Obligations.FetchOutOfRangeFaults := by
  intro s u hfrom hf hpc
  rcases step_cases_of_fetching hfrom hf with ⟨_, e⟩ | ⟨hin, _⟩
  · exact ⟨_, e, faulted_takeFault_firstBad u 0 u.pc⟩
  · omega

/-- Settles O9: a word in range that the decoder rejects leaves the case of the decode fault. -/
theorem illegalWordFaults : Obligations.IllegalWordFaults := by
  intro s u w r hfrom hf hpc hw hdec
  obtain rfl := eq_fetchedWord hw
  rcases step_cases_of_fetching hfrom hf with ⟨hout, _⟩ | ⟨_, ⟨_, _, e⟩ | ⟨i, hi, _⟩⟩
  · omega
  · exact ⟨_, e, faulted_takeFault u .decodeFault (fetchedWord u) 0⟩
  · cases hi.symm.trans hdec

end Sys2Proof.Machine

/-! # Control flow (41_flow.md)

`exec_call_push` to `exec_ret_underflow` say what CALL and RET do, `State.advance_skipIf` what a skip does to the whole
state; the words decode by the round trip of R305. -/

namespace Sys2Proof.Machine

/-! ### The operands as numbers -/

@[simp] theorem addrOperand_toNat (nnn : BitVec 12) : (addrOperand nnn).toNat = nnn.toNat :=
  BitVec.toNat_setWidth_of_le (by decide)

/-- A byte and 12 bits add up to less than 2^16, so that the sum does not wrap (R540). -/
@[simp] theorem offsetTarget_toNat (v0 : Byte) (nnn : BitVec 12) :
    (offsetTarget v0 nnn).toNat = v0.toNat + nnn.toNat := by
  simp only [offsetTarget, BitVec.toNat_add, BitVec.toNat_setWidth]
  omega

/-! ### CALL and RET (R510, R520) -/

/-- A RET from anywhere, in the state that a CALL leaves, differs from the CALL's state in pc and one stack slot. -/
theorem exec_ret_after_push (s : State) (h : s.sp.val < 16) (p a : Word) :
    exec .ret { s with pc := p, sp := ⟨s.sp.val + 1, by omega⟩, stack := s.stack.set s.sp.val a h } =
      .next { s with pc := a, stack := s.stack.set s.sp.val a h } := by
  rw [exec_ret_pop _ (Nat.succ_pos s.sp.val)]
  simp

/-- Settles O17: CALL pushes, and RET takes the pushed address off again. -/
theorem callThenReturnComesBack : Obligations.CallThenReturnComesBack := by
  intro nnn s hsp
  refine ⟨_, exec_call_push nnn s hsp, fun p => ⟨_, exec_ret_after_push s hsp p (s.pc + 2), rfl, fun j hj => ?_⟩⟩
  exact Vector.getElem_set_ne hsp j.isLt hj.symm

/-- Settles O15: the push takes the one slot at sp, and with no slot free the fault entry is the frame `Faulted`. -/
theorem callPushesOrOverflows : Obligations.CallPushesOrOverflows := by
  intro nnn s
  constructor
  · intro hsp
    refine ⟨_, exec_call_push nnn s hsp, addrOperand_toNat nnn, rfl, fun j => ?_, rfl, sameBytes_of_eq rfl rfl⟩
    simp only [Vector.getElem_set, eq_comm (a := s.sp.val)]
  · intro hsp
    exact ⟨_, exec_call_overflow nnn s hsp, faulted_takeFault s .stackOverflow (encode (.call nnn)) 0⟩

/-- Settles O16: the pop takes the slot below sp, and with none in use the fault entry is the frame `Faulted`. -/
theorem returnPopsOrUnderflows : Obligations.ReturnPopsOrUnderflows := by
  intro s
  constructor
  · intro j hsp
    have hslot : s.sp.val - 1 = j.val := by omega
    exact ⟨_, exec_ret_pop s (by omega), by simp only [hslot], hslot, rfl, sameBytes_of_eq rfl rfl⟩
  · intro hsp
    exact ⟨_, exec_ret_underflow s hsp, faulted_takeFault s .stackUnderflow (encode .ret) 0⟩

/-! ### Jumps (R515, R540) -/

/-- Settles O13: `exec` is the jump to nnn, and the word decodes by the round trip. -/
theorem jumpSetsPcOnly : Obligations.JumpSetsPcOnly := fun nnn _ =>
  ⟨decodeOfEncodeGivesTheInstructionBack (.jp nnn) rfl, _, rfl, addrOperand_toNat nnn, rfl, sameBytes_of_eq rfl rfl⟩

/-- Settles O14: the sum of a byte and 12 bits fits in pc, so the addition does not wrap. -/
theorem jumpWithOffsetAddsV0 : Obligations.JumpWithOffsetAddsV0 := fun nnn s =>
  ⟨_, rfl, offsetTarget_toNat (s.readV 0) nnn, offsetTarget_le (s.readV 0) nnn, rfl, sameBytes_of_eq rfl rfl⟩

/-! ### Skips (R500, R525 to R538) -/

/-- A skip after the default advance writes pc alone: 4 past the instruction when the condition holds, else 2. -/
theorem State.advance_skipIf (s : State) (c : Bool) :
    s.advance.skipIf c = { s with pc := if c then s.pc + 4 else s.pc + 2 } := by
  cases c with
  | false => rfl
  | true => simp only [State.skipIf, State.advance, if_true, add_two_two]

/-- The next state of a skip on equality. -/
theorem State.advance_skipIf_beq (s : State) (a b : Byte) :
    s.advance.skipIf (a == b) = { s with pc := if a = b then s.pc + 4 else s.pc + 2 } := by
  simp only [State.advance_skipIf, beq_iff_eq]

/-- The next state of a skip on inequality. -/
theorem State.advance_skipIf_bne (s : State) (a b : Byte) :
    s.advance.skipIf (a != b) = { s with pc := if a = b then s.pc + 2 else s.pc + 4 } := by
  simp only [State.advance_skipIf, bne_iff_ne, ite_not]

/-- Settles O18: SE skips on equality and SNE on inequality, of V[x] and kk. -/
theorem immediateSkips : Obligations.ImmediateSkips := fun x kk s =>
  ⟨decodeOfEncodeGivesTheInstructionBack (.seImm x kk) rfl, decodeOfEncodeGivesTheInstructionBack (.sneImm x kk) rfl,
    congrArg _ (s.advance_skipIf_beq (s.readV x) kk), congrArg _ (s.advance_skipIf_bne (s.readV x) kk)⟩

/-- The words 5xyN and 9xyN with N other than 0 are no instruction (30_encoding.md R311). -/
theorem decode_registerSkip_of_ne_zero (x y : Reg) {n : BitVec 4} (hn : n ≠ 0) :
    decode (0x5#4 ++ regBits x ++ regBits y ++ n) = .error .family5 ∧
      decode (0x9#4 ++ regBits x ++ regBits y ++ n) = .error .family9 := by
  have h : n.toNat ≠ 0 := fun e => hn (BitVec.eq_of_toNat_eq e)
  simp [decode, h]

/-- Settles O19: SE skips on equality and SNE on inequality, of V[x] and V[y]; the low nibble must be 0. -/
theorem registerSkips : Obligations.RegisterSkips := fun x y s =>
  ⟨decodeOfEncodeGivesTheInstructionBack (.seReg x y) rfl, decodeOfEncodeGivesTheInstructionBack (.sneReg x y) rfl,
    fun _ => decode_registerSkip_of_ne_zero x y,
    congrArg _ (s.advance_skipIf_beq (s.readV x) (s.readV y)), congrArg _ (s.advance_skipIf_bne (s.readV x) (s.readV y))⟩

end Sys2Proof.Machine

/-! # Register loads, the ALU and the random byte (42_alu.md)

`writesRegs_writeV` and `writesRegs_writeResult` say once what a register write and a result with its flag do after the
default advance; the ALU's values and flags are then read as numbers, in the form of R600. -/

namespace Sys2Proof.Machine

/-! ### What a register write does (R420, R421) -/

/-- The default advance and one register write: no flag, and x = 15 is an ordinary destination (R601). -/
theorem writesRegs_writeV (s : State) (x : Reg) {b c : Byte} (hb : b = c) :
    WritesRegs s (s.advance.writeV x b) fun r => if r = x then c else s.readV r := by
  subst hb
  exact ⟨fun r => s.advance.readV_writeV x r b, rfl, onlyRegsAndPc_of_eq rfl⟩

/-- The default advance, the result and then the flag, so that x = 15 keeps the flag (R601, decision D10). -/
theorem writesRegs_writeResult (s : State) (x : Reg) {b c g : Byte} {f : Bool} (hf : flagByte f = g) (hb : b = c) :
    WritesRegs s (s.advance.writeResult x b f) fun r => if r = VF then g else if r = x then c else s.readV r := by
  subst hb hf
  exact ⟨s.advance.readV_writeResult x b f, rfl, onlyRegsAndPc_of_eq rfl⟩

theorem State.readV_writeV_same (s : State) (x : Reg) (b : Byte) : (s.writeV x b).readV x = b := by
  rw [State.readV_writeV, if_pos rfl]

/-! ### The results as numbers modulo 256 (R600) -/

theorem byte_add_eq_ofNat (a b : Byte) : a + b = BitVec.ofNat 8 ((a.toNat + b.toNat) % 256) :=
  BitVec.eq_of_toNat_eq (by simp)

theorem byte_sub_eq_ofNat (a b : Byte) : a - b = BitVec.ofNat 8 ((a.toNat + 256 - b.toNat) % 256) := by
  apply BitVec.eq_of_toNat_eq
  simp only [BitVec.toNat_sub, BitVec.toNat_ofNat]
  omega

/-- A right shift by one halves (R650). -/
theorem byte_shiftRight_one_eq_ofNat (a : Byte) : a >>> 1 = BitVec.ofNat 8 (a.toNat / 2) := by
  apply BitVec.eq_of_toNat_eq
  simp only [BitVec.toNat_ushiftRight, BitVec.toNat_ofNat, Nat.shiftRight_eq_div_pow]
  omega

/-- A left shift by one doubles modulo 256 (R660). -/
theorem byte_shiftLeft_one_eq_ofNat (a : Byte) : a <<< 1 = BitVec.ofNat 8 (a.toNat * 2 % 256) := by
  apply BitVec.eq_of_toNat_eq
  simp only [BitVec.toNat_shiftLeft, BitVec.toNat_ofNat, Nat.shiftLeft_eq]
  omega

/-! ### The flags as bytes (R600, R602) -/

/-- `carryFlag` and `noBorrowFlag` are flags of this form. -/
theorem flagByte_decide (p : Prop) [Decidable p] : flagByte (decide p) = if p then 1 else 0 := by
  simp only [flagByte, decide_eq_true_eq]

/-- The flag of one bit of a byte is that binary digit. -/
theorem flagByte_getLsbD (a : Byte) (k : Nat) : flagByte (a.getLsbD k) = BitVec.ofNat 8 (a.toNat / 2 ^ k % 2) := by
  rw [BitVec.getLsbD, Nat.testBit_eq_decide_div_mod_eq, flagByte_decide]
  rcases Nat.mod_two_eq_zero_or_one (a.toNat / 2 ^ k) with h | h <;> simp [h]

theorem flagByte_shiftOutRight (a : Byte) : flagByte (shiftOutRight a) = BitVec.ofNat 8 (a.toNat % 2) := by
  rw [shiftOutRight, flagByte_getLsbD, pow_zero, Nat.div_one]

/-- Bit 7 is the top bit, so the quotient is the digit itself. -/
theorem flagByte_shiftOutLeft (a : Byte) : flagByte (shiftOutLeft a) = BitVec.ofNat 8 (a.toNat / 128) := by
  have h : a.toNat / 2 ^ 7 % 2 = a.toNat / 128 := by omega
  rw [shiftOutLeft, flagByte_getLsbD, h]

/-! ### Instructions that write no flag (R610 to R635, R670) -/

/-- Settles O20: each of the three is one register write, and the words decode by the round trip. -/
theorem loadsAndImmediateAdd : Obligations.LoadsAndImmediateAdd := fun x y kk s =>
  ⟨decodeOfEncodeGivesTheInstructionBack (.ldImm x kk) rfl, decodeOfEncodeGivesTheInstructionBack (.addImm x kk) rfl,
    decodeOfEncodeGivesTheInstructionBack (.ldReg x y) rfl,
    ⟨_, rfl, writesRegs_writeV s x rfl⟩,
    ⟨_, rfl, writesRegs_writeV s x (byte_add_eq_ofNat (s.readV x) kk)⟩,
    ⟨_, rfl, writesRegs_writeV s x rfl⟩⟩

/-- A register write, with the value written read back from the next state. -/
theorem writesRegs_writeV_readBack (s : State) (x : Reg) (b : Byte) :
    WritesRegs s (s.advance.writeV x b) fun r => if r = x then (s.advance.writeV x b).readV x else s.readV r :=
  writesRegs_writeV s x (s.advance.readV_writeV_same x b).symm

/-- Settles O21: V[x] is the bitwise operation on the old operands, so each of its bits is that of the operand bits. -/
theorem logicWritesNoFlag : Obligations.LogicWritesNoFlag := by
  intro x y s
  refine ⟨⟨_, rfl, fun k => ?_, writesRegs_writeV_readBack s x _⟩,
    ⟨_, rfl, fun k => ?_, writesRegs_writeV_readBack s x _⟩, ⟨_, rfl, fun k => ?_, writesRegs_writeV_readBack s x _⟩⟩
  · rw [State.readV_writeV_same, BitVec.getLsbD_or]
  · rw [State.readV_writeV_same, BitVec.getLsbD_and]
  · rw [State.readV_writeV_same, BitVec.getLsbD_xor]

@[simp] theorem State.readV_writeMaskedDraw (s : State) (x q : Reg) (kk d : Byte) :
    (s.writeMaskedDraw x kk d).readV q = if q = x then d &&& kk else s.readV q := s.readV_writeV x q (d &&& kk)

/-- A bit that kk clears is 0 in the register written, whatever the draw. -/
theorem State.getLsbD_writeMaskedDraw_of_cleared (s : State) (x : Reg) {kk : Byte} (d : Byte) {k : Nat}
    (hk : kk.getLsbD k = false) : ((s.writeMaskedDraw x kk d).readV x).getLsbD k = false := by
  rw [State.readV_writeMaskedDraw, if_pos rfl, BitVec.getLsbD_and, hk, Bool.and_false]

/-- Settles O25: RND is the write of one masked draw, and the count of draws, which no register read depends on, goes
up by one. -/
theorem randomByteIsAMaskedDraw : Obligations.RandomByteIsAMaskedDraw := fun x kk s =>
  ⟨_, rfl, fun r => s.advance.readV_writeMaskedDraw x r kk (Config.freeDraw s.draws),
    fun _ hk => s.advance.getLsbD_writeMaskedDraw_of_cleared x (Config.freeDraw s.draws) hk,
    rfl, rfl, rfl, sameBytes_of_eq rfl rfl⟩

/-! ### Instructions that write VF as a flag (R640 to R660) -/

/-- Settles O22: the sum modulo 256, then the carry. -/
theorem addWritesSumAndCarry : Obligations.AddWritesSumAndCarry := fun x y s =>
  ⟨decodeOfEncodeGivesTheInstructionBack (.addReg x y) rfl, _, rfl,
    writesRegs_writeResult s x (flagByte_decide _) (byte_add_eq_ofNat (s.readV x) (s.readV y))⟩

/-- Settles O23: the difference modulo 256, then the "no borrow" flag; SUBN is SUB with its operands exchanged. -/
theorem subtractionsWriteDifferenceAndNoBorrow : Obligations.SubtractionsWriteDifferenceAndNoBorrow := fun x y s =>
  ⟨decodeOfEncodeGivesTheInstructionBack (.subReg x y) rfl, decodeOfEncodeGivesTheInstructionBack (.subnReg x y) rfl,
    ⟨_, rfl, writesRegs_writeResult s x (flagByte_decide _) (byte_sub_eq_ofNat (s.readV x) (s.readV y))⟩,
    ⟨_, rfl, writesRegs_writeResult s x (flagByte_decide _) (byte_sub_eq_ofNat (s.readV y) (s.readV x))⟩⟩

/-- Settles O24: the shifted V[x], then the bit shifted out; no operand of the write depends on y. -/
theorem shiftsWriteResultAndShiftedOutBit : Obligations.ShiftsWriteResultAndShiftedOutBit := fun x y s =>
  ⟨decodeOfEncodeGivesTheInstructionBack (.shr x y) rfl, decodeOfEncodeGivesTheInstructionBack (.shl x y) rfl,
    ⟨_, rfl, writesRegs_writeResult s x (flagByte_shiftOutRight (s.readV x)) (byte_shiftRight_one_eq_ofNat (s.readV x))⟩,
    ⟨_, rfl, writesRegs_writeResult s x (flagByte_shiftOutLeft (s.readV x)) (byte_shiftLeft_one_eq_ofNat (s.readV x))⟩⟩

end Sys2Proof.Machine

/-! # The index register and the memory transfers (43_index_memory.md)

`writesBytes_store` is the frame of a store whose bytes are known, `read_writeBytes_readRegs` gives the bytes of a stored
register range, and `writesRegs_writeRegs` is the frame of a load; none of the three transfers writes I (decision D13). -/

namespace Sys2Proof.Machine

/-! ### Storing consecutive bytes (R730, R745) -/

/-- The default advance and a store in range: byte j goes to address a + j, and every other address keeps its byte. -/
theorem writesBytes_store {s : State} {a : Nat} {bs : List Byte} {f : Nat → Byte} (hs : MemCanonical s)
    (hfits : a + bs.length ≤ Config.memSize) (hin : ∀ j (hj : j < bs.length), bs[j] = f (a + j))
    (hout : ∀ b, b < a ∨ a + bs.length ≤ b → s.byteAt b = f b) :
    WritesBytes s { s with pc := s.pc + 2, mem := Memory.writeBytes s.font s.mem a bs } f := by
  refine ⟨fun b => ?_, rfl, rfl⟩
  by_cases hb : b < a ∨ a + bs.length ≤ b
  · exact (Memory.read_writeBytes_other hb).trans (hout b hb)
  · obtain ⟨j, rfl⟩ : ∃ j, b = a + j := Nat.exists_eq_add_of_le (by omega)
    have hj : j < bs.length := by omega
    exact (Memory.read_writeBytes_inside hs hfits hj).trans (hin j hj)

/-- Settles O28: the three digits are stored at I, I + 1 and I + 2, and no other address is one of these. -/
theorem bcdStoresThreeDigits : Obligations.BcdStoresThreeDigits := by
  intro x s hs hi
  have hfits : s.i.toNat + (bcdDigits (s.readV x)).length ≤ Config.memSize := by
    rw [bcdDigits_length, Config.memSize]
    omega
  refine ⟨_, exec_ldBVx_store x s hi, writesBytes_store hs hfits (fun j hj => ?digit) fun b hb => ?other⟩
  case digit =>
    match j, hj with
    | 0, _ | 1, _ | 2, _ => simp [bcdDigits]
  case other =>
    rw [bcdDigits_length] at hb
    rw [if_neg (by omega), if_neg (by omega), if_neg (by omega)]

/-- Settles O29: address I + j holds V[j] for j up to x, and an address outside I to I + x is none that is stored to. -/
theorem storeCopiesRegistersToMemory : Obligations.StoreCopiesRegistersToMemory := by
  intro x s hs hi
  refine ⟨_, exec_storeRegs_store x s hi, fun j hj => read_writeBytes_readRegs hs hi hj, fun a => ?_, rfl, rfl⟩
  by_cases ha : s.i.toNat ≤ a ∧ a ≤ s.i.toNat + x.val
  · exact (if_pos ha).symm
  · have hout : a < s.i.toNat ∨ s.i.toNat + (s.readRegs x).length ≤ a := by
      rw [readRegs_length]
      omega
    exact (Memory.read_writeBytes_other hout).trans (if_neg ha).symm

/-! ### Loading the first registers (R750) -/

/-- After a load of V0 to Vx from the values of `g`, register r up to x reads `g r` and the others stay. -/
theorem State.readV_writeRegs_range (s : State) (x : Reg) (g : Nat → Byte) (r : Reg) :
    (s.writeRegs ((List.range (x.val + 1)).map g)).readV r = if r ≤ x then g r.val else s.readV r := by
  by_cases hr : r ≤ x
  · have hlt : r.val < x.val + 1 := Nat.lt_succ_of_le hr
    rw [if_pos hr, State.readV_writeRegs, List.getElem?_map, List.getElem?_range hlt]
    rfl
  · have hle : ((List.range (x.val + 1)).map g).length ≤ r.val := by
      rw [List.length_map, List.length_range]
      exact Nat.lt_of_not_le hr
    rw [if_neg hr, State.readV_writeRegs_of_lt s hle]

/-- The default advance and a load of V0 to Vx. -/
theorem writesRegs_writeRegs (s : State) (x : Reg) (g : Nat → Byte) :
    WritesRegs s (s.advance.writeRegs ((List.range (x.val + 1)).map g))
      fun r => if r ≤ x then g r.val else s.readV r :=
  ⟨s.advance.readV_writeRegs_range x g, rfl, onlyRegsAndPc_of_eq rfl⟩

/-- Settles O30: in range the access loads the bytes at I onward into V0 to Vx. -/
theorem loadCopiesMemoryToRegisters : Obligations.LoadCopiesMemoryToRegisters := fun x s hi =>
  ⟨_, exec_loadRegs_load x s hi, writesRegs_writeRegs s x fun j => s.byteAt (s.i.toNat + j)⟩

/-! ### Writing I (R700, R710, R720) -/

@[simp] theorem indexSum_toNat (i : Word) (a : Byte) : (indexSum i a).toNat = (i.toNat + a.toNat) % 65536 := by
  rw [indexSum, BitVec.toNat_add, BitVec.toNat_setWidth_of_le (by decide)]

/-- Five times a byte fits in I, so nothing is cut off. -/
@[simp] theorem glyphAddr_toNat (a : Byte) : (glyphAddr a).toNat = 5 * a.toNat := by
  rw [glyphAddr, BitVec.toNat_ofNat]
  omega

/-- Settles O26: `exec` is the write of nnn to I, and the word decodes by the round trip. -/
theorem loadIndexImmediate : Obligations.LoadIndexImmediate := fun nnn _ =>
  ⟨decodeOfEncodeGivesTheInstructionBack (.ldI nnn) rfl, _, rfl, addrOperand_toNat nnn, rfl, rfl,
    sameBytes_of_eq rfl rfl⟩

/-- Settles O27: each of the two is one write to I, of the sum modulo 65536 and of the glyph's address. -/
theorem indexArithmetic : Obligations.IndexArithmetic := fun x s =>
  ⟨⟨_, rfl, indexSum_toNat s.i (s.readV x), rfl, rfl, sameBytes_of_eq rfl rfl⟩,
    ⟨_, rfl, glyphAddr_toNat (s.readV x), rfl, rfl, sameBytes_of_eq rfl rfl⟩⟩

end Sys2Proof.Machine

/-! # The display (44_display.md)

`Drawing.Paints d e m` says what a stretch of a draw does, cell by cell: it XORs the cells of `m`. One column, one sprite
row and the sprite paint their own cells, no cell twice (R810), and the cells of the sprite are those of `spriteBit`. -/

namespace Sys2Proof.Machine

/-! ### The cells of a sprite (R811, R812) -/

/-- How far column c lies to the right of the origin column cx, wrapped. -/
def colOffset (cx : Nat) (c : Fin 64) : Nat := (c.val + 64 - cx % 64) % 64

/-- How far row r lies below the origin row cy, wrapped. -/
def rowOffset (cy : Nat) (r : Fin 32) : Nat := (r.val + 32 - cy % 32) % 32

/-- One column of the screen is at a given offset from the origin. -/
theorem eq_wrapCol_iff {cx k : Nat} (hk : k < 64) (c : Fin 64) : c = wrapCol (cx + k) ↔ colOffset cx c = k := by
  simp only [Fin.ext_iff, wrapCol, colOffset]
  omega

/-- One row of the screen is at a given offset from the origin. -/
theorem eq_wrapRow_iff {cy k : Nat} (hk : k < 32) (r : Fin 32) : r = wrapRow (cy + k) ↔ rowOffset cy r = k := by
  simp only [Fin.ext_iff, wrapRow, rowOffset]
  omega

/-- The cells of one sprite row at row r, as far as its first k columns. -/
def rowCells (row : Byte) (r cx k : Nat) (r' : Fin 32) (c : Fin 64) : Bool :=
  decide (r' = wrapRow r ∧ colOffset cx c < k) && row.getLsbD (7 - colOffset cx c)

/-- The sprite bit on a cell is the bit of the row at the cell's row offset, counted from bit 7 by its column offset. -/
theorem spriteBit_eq_any (rows : List Byte) (cy cx : Nat) (r : Fin 32) (c : Fin 64) :
    spriteBit rows cy cx r c = (rows[rowOffset cy r]?).any fun row =>
      decide (colOffset cx c < 8) && row.getLsbD (7 - colOffset cx c) := by
  simp only [spriteBit, rowOffset, colOffset]
  cases rows[(r.val + 32 - cy % 32) % 32]? <;> rfl

/-- With fewer than 32 rows below it, no sprite row comes back to the first one. -/
theorem spriteBit_below_first_row {rows : List Byte} (hlen : rows.length < 32) (cy cx : Nat) (c : Fin 64) :
    spriteBit rows (cy + 1) cx (wrapRow cy) c = false := by
  have hrow : rowOffset (cy + 1) (wrapRow cy) = 31 := by simp only [rowOffset, wrapRow]; omega
  rw [spriteBit_eq_any, hrow, List.getElem?_eq_none (Nat.le_of_lt_succ hlen), Option.any_none]

/-- A sprite is its first row and, one row lower, the others. -/
theorem spriteBit_cons (row : Byte) {rows : List Byte} (hlen : rows.length < 32) (cy cx : Nat) (r : Fin 32)
    (c : Fin 64) :
    spriteBit (row :: rows) cy cx r c = (rowCells row cy cx 8 r c || spriteBit rows (cy + 1) cx r c) := by
  by_cases hr : r = wrapRow cy
  · have hrow : rowOffset cy r = 0 := (eq_wrapRow_iff (k := 0) (by decide) r).mp hr
    have hfirst : spriteBit (row :: rows) cy cx r c = rowCells row cy cx 8 r c := by
      simp [spriteBit_eq_any, rowCells, ← hr, hrow]
    rw [hfirst, hr, spriteBit_below_first_row hlen, Bool.or_false]
  · have hzero : rowOffset cy r ≠ 0 := fun h => hr ((eq_wrapRow_iff (k := 0) (by decide) r).mpr h)
    have hrow : rowOffset cy r = rowOffset (cy + 1) r + 1 := by simp only [rowOffset] at *; omega
    simp [spriteBit_eq_any, hrow, rowCells, hr]

/-! ### What a stretch of a draw does (R810, R813, R814) -/

/-- From d to e exactly the cells of m are flipped; the collision flag takes a set cell among them, and the change flag
any of them. -/
structure Drawing.Paints (d e : Drawing) (m : Fin 32 → Fin 64 → Bool) : Prop where
  cell : ∀ r c, cellAt e.fb r c = (cellAt d.fb r c != m r c)
  coll : e.coll = true ↔ d.coll = true ∨ ∃ r c, m r c = true ∧ cellAt d.fb r c = true
  changed : e.changed = true ↔ d.changed = true ∨ ∃ r c, m r c = true

theorem Drawing.Paints.congr {d e : Drawing} {m m' : Fin 32 → Fin 64 → Bool} (h : d.Paints e m)
    (hm : ∀ r c, m r c = m' r c) : d.Paints e m' :=
  (funext fun r => funext (hm r) : m = m') ▸ h

theorem Drawing.paints_none (d : Drawing) : d.Paints d fun _ _ => false := ⟨by simp, by simp, by simp⟩

theorem Drawing.paints_plot (d : Drawing) (r c : Nat) :
    d.Paints (d.plot r c) fun r' c' => decide (r' = wrapRow r ∧ c' = wrapCol c) := by
  refine ⟨fun r' c' => ?_, ?_, ?_⟩
  · simp only [Drawing.plot, cellAt_flipCell]
    split
    · next h => obtain ⟨rfl, rfl⟩ := h; simp
    · next h => simp [h]
  · simp [Drawing.plot, and_assoc]
  · simp [Drawing.plot]

/-- One stretch after another paints the cells of both, when these are disjoint. -/
theorem Drawing.Paints.trans {d e f : Drawing} {m m' : Fin 32 → Fin 64 → Bool} (h : d.Paints e m)
    (h' : e.Paints f m') (hdisj : ∀ r c, m r c = true → m' r c = false) :
    d.Paints f fun r c => m r c || m' r c := by
  have hkeep : ∀ r c, m' r c = true → cellAt e.fb r c = cellAt d.fb r c := fun r c hm' => by
    cases hm : m r c with
    | true => simp [hdisj r c hm] at hm'
    | false => simp [h.cell, hm]
  refine ⟨fun r c => ?_, ?_, ?_⟩
  · rw [h'.cell, h.cell]
    cases hm : m r c with
    | true => simp [hdisj r c hm]
    | false => simp
  · have hset : (∃ r c, m' r c = true ∧ cellAt e.fb r c = true) ↔
        ∃ r c, m' r c = true ∧ cellAt d.fb r c = true :=
      exists₂_congr fun r c => and_congr_right fun hm' => by rw [hkeep r c hm']
    simp only [h'.coll, h.coll, hset, Bool.or_eq_true, or_and_right, exists_or, or_assoc]
  · simp only [h'.changed, h.changed, Bool.or_eq_true, exists_or, or_assoc]

/-- One column of a sprite row: the bit at offset k, when it is set, falls on one cell. -/
theorem Drawing.paints_column (d : Drawing) (r cx : Nat) (row : Byte) {k : Nat} (hk : k < 8) :
    d.Paints (if row.getLsbD (7 - k) then d.plot r (cx + k) else d)
      fun r' c => decide (r' = wrapRow r ∧ colOffset cx c = k) && row.getLsbD (7 - k) := by
  cases row.getLsbD (7 - k) with
  | false => exact d.paints_none.congr (by simp)
  | true => exact (d.paints_plot r (cx + k)).congr fun r' c => by simp [eq_wrapCol_iff (show k < 64 by omega)]

/-- The first k columns of a sprite row, by induction on k. -/
theorem Drawing.paints_columns (d : Drawing) (r cx : Nat) (row : Byte) {k : Nat} (hk : k ≤ 8) :
    d.Paints ((List.range k).foldl (fun d c => if row.getLsbD (7 - c) then d.plot r (cx + c) else d) d)
      (rowCells row r cx k) := by
  induction k with
  | zero => exact d.paints_none.congr (by simp [rowCells])
  | succ k ih =>
    rw [List.range_succ, List.foldl_append]
    refine ((ih (by omega)).trans (paints_column _ r cx row hk) fun r' c h => ?disjoint).congr fun r' c => ?cells
    case disjoint =>
      have hne : colOffset cx c ≠ k := fun e => by simp [rowCells, e] at h
      simp [hne]
    case cells =>
      by_cases hc : colOffset cx c = k
      · simp [rowCells, hc]
      · have hlt : colOffset cx c < k + 1 ↔ colOffset cx c < k := by omega
        simp [rowCells, hc, hlt]

theorem Drawing.paints_drawRow (d : Drawing) (r cx : Nat) (row : Byte) :
    d.Paints (d.drawRow r cx row) (rowCells row r cx 8) := d.paints_columns r cx row le_rfl

/-- The sprite, by induction on its rows: with at most 32 of them no two land on one row of the screen. -/
theorem Drawing.paints_drawRows (d : Drawing) (cy cx : Nat) {rows : List Byte} (h : rows.length ≤ 32) :
    d.Paints (d.drawRows cy cx rows) (spriteBit rows cy cx) := by
  induction rows generalizing d cy with
  | nil => exact d.paints_none
  | cons row rows ih =>
    have hlen : rows.length < 32 := h
    refine ((d.paints_drawRow cy cx row).trans (ih _ (cy + 1) hlen.le) fun r c hr => ?disjoint).congr
      fun r c => (spriteBit_cons row hlen cy cx r c).symm
    case disjoint =>
      obtain ⟨⟨rfl, -⟩, -⟩ := by simpa [rowCells] using hr
      exact spriteBit_below_first_row hlen cy cx c

/-- A draw XORs each cell with the sprite bit that falls on it (R810). -/
theorem cellAt_drawSprite (fb : Framebuffer) (cy cx : Nat) {rows : List Byte} (h : rows.length ≤ 32) (r : Fin 32)
    (c : Fin 64) : cellAt (drawSprite fb cy cx rows).fb r c = (cellAt fb r c != spriteBit rows cy cx r c) :=
  (Drawing.paints_drawRows _ cy cx h).cell r c

/-- A draw reports a collision exactly when a set sprite bit falls on a set cell (R813). -/
theorem drawSprite_coll (fb : Framebuffer) (cy cx : Nat) {rows : List Byte} (h : rows.length ≤ 32) :
    (drawSprite fb cy cx rows).coll = true ↔ ∃ r c, spriteBit rows cy cx r c = true ∧ cellAt fb r c = true := by
  simpa [drawSprite] using (Drawing.paints_drawRows ⟨fb, false, false⟩ cy cx h).coll

/-- A byte other than 0 has a set bit, here counted from bit 7 as the columns of a row are (R811). -/
theorem exists_column_of_ne_zero {b : Byte} (hb : b ≠ 0) : ∃ k, k < 8 ∧ b.getLsbD (7 - k) = true := by
  by_contra hnone
  push Not at hnone
  refine hb (BitVec.eq_of_getLsbD_eq fun i hi => ?_)
  have hbit := hnone (7 - i) (by omega)
  rw [show 7 - (7 - i) = i by omega] at hbit
  simpa using hbit

/-- Some sprite bit is set exactly when some sprite byte is not 0 (R814). -/
theorem exists_spriteBit_iff (cy cx : Nat) {rows : List Byte} (h : rows.length ≤ 32) :
    (∃ r c, spriteBit rows cy cx r c = true) ↔ ∃ b ∈ rows, b ≠ 0 := by
  constructor
  · rintro ⟨r, c, hbit⟩
    rw [spriteBit_eq_any, Option.any_eq_true] at hbit
    obtain ⟨row, hrow, hset⟩ := hbit
    refine ⟨row, List.mem_of_getElem? hrow, ?_⟩
    rintro rfl
    simp at hset
  · rintro ⟨b, hmem, hb⟩
    obtain ⟨j, hj, rfl⟩ := List.mem_iff_getElem.mp hmem
    obtain ⟨k, hk, hset⟩ := exists_column_of_ne_zero hb
    have hrow : rowOffset cy (wrapRow (cy + j)) = j := (eq_wrapRow_iff (by omega) _).mp rfl
    have hcol : colOffset cx (wrapCol (cx + k)) = k := (eq_wrapCol_iff (by omega) _).mp rfl
    exact ⟨wrapRow (cy + j), wrapCol (cx + k), by simp [spriteBit_eq_any, hrow, hcol, hj, hk, hset]⟩

/-- A draw changes a cell exactly when some sprite byte is not 0 (R814). -/
theorem drawSprite_changed (fb : Framebuffer) (cy cx : Nat) {rows : List Byte} (h : rows.length ≤ 32) :
    (drawSprite fb cy cx rows).changed = true ↔ ∃ b ∈ rows, b ≠ 0 := by
  rw [← exists_spriteBit_iff cy cx h]
  simpa [drawSprite] using (Drawing.paints_drawRows ⟨fb, false, false⟩ cy cx h).changed

/-! ### CLS and DRW (R800 to R815) -/

theorem length_spriteRows_le {n : Nat} (hn : n ≤ 15) (s : State) : (spriteRows s n).length ≤ 32 := by
  rw [spriteRows, List.length_map, List.length_range]
  omega

theorem flagByte_eq_one_iff (f : Bool) : flagByte f = 1 ↔ f = true := by cases f <;> decide

theorem flagByte_eq_one_or_zero (f : Bool) : flagByte f = 1 ∨ flagByte f = 0 := by cases f <;> decide

/-- Settles O33: CLS is the write of the blank framebuffer and of dirty, and the word decodes by the round trip. -/
theorem clearScreen : Obligations.ClearScreen :=
  ⟨decodeOfEncodeGivesTheInstructionBack .cls rfl, fun _ =>
    ⟨_, rfl, cellAt_blankFb, rfl, rfl, rfl, sameBytes_of_eq rfl rfl⟩⟩

/-- Settles O34: DRW in range is the compositor's draw of the rows at I, and the flag is written last. -/
theorem drawXorsTheSprite : Obligations.DrawXorsTheSprite := by
  intro x y n s hn hi bit
  have hlen := length_spriteRows_le hn s
  refine ⟨_, exec_drw_draw x y n s hi, cellAt_drawSprite s.fb _ _ hlen, ?flag, ?collision, fun q hq => ?regs, ?dirty,
    rfl, rfl, sameBytes_of_eq rfl rfl⟩
  case flag =>
    rw [State.readV_writeFlag, if_pos rfl]
    exact flagByte_eq_one_or_zero _
  case collision =>
    rw [State.readV_writeFlag, if_pos rfl, flagByte_eq_one_iff]
    exact drawSprite_coll s.fb _ _ hlen
  case regs =>
    rw [State.readV_writeFlag, if_neg hq]
    rfl
  case dirty =>
    rw [State.writeFlag_dirty, Bool.or_eq_true, drawSprite_changed s.fb _ _ hlen]

/-- Settles O35: the second draw has the sprite and the origin of the first, since DRW writes neither memory nor I nor a
register other than VF, and XOR with the same bit twice is the identity. -/
theorem drawingTwiceRestoresTheFramebuffer : Obligations.DrawingTwiceRestoresTheFramebuffer := by
  intro x y n s hx hy hn hi
  obtain ⟨t, ht, hcell, -, -, hreg, -, -, hframe, hbytes⟩ := drawXorsTheSprite x y n s hn hi
  have hindex : t.i = s.i := by rw [hframe]
  have hrows : spriteRows t n = spriteRows s n := by simp only [spriteRows, hindex, hbytes _]
  obtain ⟨u, hu, hcell', -, hflag, -⟩ := drawXorsTheSprite x y n t hn (by rwa [hindex])
  rw [hrows, hreg x hx, hreg y hy] at hcell' hflag
  refine ⟨t, u, ht, hu, framebuffer_ext fun r c => ?restored,
    hflag.trans (exists₂_congr fun r c => and_congr_right fun hbit => ?cleared)⟩
  case restored => rw [hcell', hcell, Bool.bne_assoc, bne_self_eq_false, Bool.bne_false]
  case cleared => rw [hcell, hbit, Bool.bne_true, Bool.not_eq_true']

/-- Refutes O36: with the glyph row F0 drawn on a blank screen, every cell under the sprite is set. Drawing it there
again twice, the first draw clears them all, and the second finds none set. -/
theorem not_secondEqualDrawAlwaysCollides : ¬ Obligations.SecondEqualDrawAlwaysCollides := by
  intro h
  obtain ⟨t, u, ht, hu, -, hflag⟩ := drawingTwiceRestoresTheFramebuffer 0 1 1
    { State.reset with fb := (drawSprite blankFb 0 0 [0xF0]).fb } (by decide) (by decide) (by decide) (by decide)
  have hcollides := h 0 1 1 _ t u (by decide) (by decide) (by decide) (by decide) (by decide)
    ⟨0xF0, by decide, by decide⟩ ht hu
  obtain ⟨r, c, hbit, hclear⟩ := hflag.mp hcollides
  have hset : cellAt (drawSprite blankFb 0 0 [0xF0]).fb r c = true := by
    have hbit' : spriteBit [0xF0] 0 0 r c = true := hbit
    rw [cellAt_drawSprite blankFb 0 0 (by decide), cellAt_blankFb, hbit']
    rfl
  exact Bool.false_ne_true (hclear.symm.trans hset)

end Sys2Proof.Machine

/-! # Keys and timers (45_keypad_timer.md)

`step_of_waiting` gives the step of a waiting core, whose two outcomes are read off `leastKey` of the new keys;
`ticks_running` gives n ticks as n decrements of each timer. -/

namespace Sys2Proof.Machine

/-! ### The key wait (R930, R931) -/

/-- A CpuStep of a Running core that waits is its wait step, and fetches nothing. -/
theorem step_of_waiting {s u : State} {x : Reg} (hfrom : CpuStepFrom s u) (hrun : u.run = .running)
    (hwait : u.wait = some x) : step s = .next (u.waitStep x) := by
  rw [step_of_cpuStepFrom hfrom, cpuStep_running hrun]
  rcases runningStep_cases u with ⟨x', hx', e⟩ | ⟨hnone, _⟩ | ⟨hnone, _⟩
  · cases hx'.symm.trans hwait
    exact e
  · cases hnone.symm.trans hwait
  · cases hnone.symm.trans hwait

/-- A key does not end a wait when it was down in the sample, or is up now. -/
theorem getLsbD_newKeys_eq_false_iff (keys snap : BitVec 16) (k : Fin 16) :
    (keys &&& ~~~ snap).getLsbD k.val = false ↔ (keys.getLsbD k.val = true → snap.getLsbD k.val = true) := by
  rw [getLsbD_newKeys]
  cases keys.getLsbD k.val <;> simp

theorem State.waitStep_of_newKey {s : State} (x : Reg) {k : Fin 16}
    (h : leastKey (s.keys &&& ~~~ s.waitSnap) = some k) :
    s.waitStep x = { s.writeV x (BitVec.ofNat 8 k.val) with pc := s.pc + 2, wait := none } := by
  rcases s.waitStep_cases x with ⟨j, hj, e⟩ | ⟨hnone, _⟩
  · cases hj.symm.trans h
    exact e
  · cases hnone.symm.trans h

theorem State.waitStep_of_noNewKey {s : State} (x : Reg) (h : leastKey (s.keys &&& ~~~ s.waitSnap) = none) :
    s.waitStep x = { s with waitSnap := s.keys } := by
  rcases s.waitStep_cases x with ⟨_, hj, _⟩ | ⟨_, e⟩
  · cases hj.symm.trans h
  · exact e

/-- Settles O40: the entry puts pc back to the instruction, and the key named by the hypotheses is the least of the new
keys, which the wait step stores. -/
theorem keyWaitStoresTheLeastNewKey : Obligations.KeyWaitStoresTheLeastNewKey := by
  refine ⟨fun x s => rfl, fun x s u k hfrom hrun hwait hdown hup hleast => ?_⟩
  have hk : leastKey (u.keys &&& ~~~ u.waitSnap) = some k := by
    refine leastKey_eq_some.mpr ⟨?_, fun j hj => (getLsbD_newKeys_eq_false_iff _ _ j).mpr (hleast j hj)⟩
    rw [getLsbD_newKeys, hdown, hup]
    rfl
  refine ⟨_, step_of_waiting hfrom hrun hwait, ?_⟩
  rw [State.waitStep_of_newKey x hk]
  exact ⟨rfl, fun r => u.readV_writeV x r _, rfl, sameBytes_of_eq rfl rfl⟩

/-- Settles O41: no key is new, so the wait step refreshes the sample. -/
theorem keyWaitWithoutNewKeyGoesOn : Obligations.KeyWaitWithoutNewKeyGoesOn := by
  intro x s u hfrom hrun hwait hheld
  have hnone : leastKey (u.keys &&& ~~~ u.waitSnap) = none :=
    leastKey_eq_none.mpr fun k => (getLsbD_newKeys_eq_false_iff _ _ k).mpr (hheld k)
  rw [step_of_waiting hfrom hrun hwait, State.waitStep_of_noNewKey x hnone]

/-! ### Skips on a key (R900 to R906) -/

/-- The next state of a skip on the negation of a condition. -/
theorem State.advance_skipIf_not (s : State) (c : Bool) :
    s.advance.skipIf (!c) = { s with pc := if c then s.pc + 2 else s.pc + 4 } := by
  rw [State.advance_skipIf]
  cases c <;> rfl

/-- Settles O37: SKP skips when the key of the low nibble is down, and SKNP when it is not. -/
theorem keySkipsTestTheLowNibbleKey : Obligations.KeySkipsTestTheLowNibbleKey := by
  intro x s down
  have hdown : s.keyDown (keyOperand (s.readV x)) = down := keyDown_keyOperand s (s.readV x)
  rw [← hdown]
  exact ⟨congrArg _ (s.advance_skipIf _), congrArg _ (s.advance_skipIf_not _)⟩

/-! ### Reading and setting the timers (R920 to R951) -/

/-- Settles O38: LD Vx, DT is one register write and LD DT, Vx one write to delay; the words decode by the round trip. -/
theorem delayTimerTransfers : Obligations.DelayTimerTransfers := fun x s =>
  ⟨decodeOfEncodeGivesTheInstructionBack (.ldVxDT x) rfl, decodeOfEncodeGivesTheInstructionBack (.ldDTVx x) rfl,
    ⟨_, rfl, writesRegs_writeV s x rfl⟩, ⟨_, rfl, rfl, rfl, rfl, sameBytes_of_eq rfl rfl⟩⟩

/-- Settles O39: LD ST, Vx is one write to sound, and the port shows whether the value written is 0. -/
theorem soundTimerDrivesSoundOn : Obligations.SoundTimerDrivesSoundOn := fun _ _ =>
  ⟨_, rfl, rfl, State.soundOn_iff _, rfl, rfl, sameBytes_of_eq rfl rfl⟩

/-! ### Ticks (R950, R952) -/

/-- Settles O42: in a Running state the event takes one from each timer. -/
theorem timerTickCountsBothTimersDown : Obligations.TimerTickCountsBothTimersDown := by
  intro s rest hsched hrun
  have hstep : step s = .next (State.timerTick { s with schedule := rest }) := step_of_schedule_cons hsched
  rw [State.timerTick_running (s := { s with schedule := rest }) hrun] at hstep
  exact ⟨_, hstep, tickDown_toNat s.delay, tickDown_toNat s.sound, rfl, sameBytes_of_eq rfl rfl⟩

/-- n decrements of a timer stop at 0. -/
theorem iterate_tickDown_toNat (n : Nat) (t : Byte) : (tickDown^[n] t).toNat = t.toNat - n := by
  induction n generalizing t with
  | zero => rfl
  | succ n ih => rw [Function.iterate_succ_apply, ih, tickDown_toNat, Nat.sub_sub, Nat.add_comm]

/-- A tick leaves the core Running, so n ticks decrement each timer n times. -/
theorem ticks_running (n : Nat) {s : State} (hrun : s.run = .running) :
    ticks n s = { s with delay := tickDown^[n] s.delay, sound := tickDown^[n] s.sound } := by
  induction n generalizing s with
  | zero => rfl
  | succ n ih =>
    rw [ticks, State.timerTick_running hrun]
    exact ih hrun

/-- Settles O43: each timer is n times decremented, and a decrement stops at 0. -/
theorem ticksSaturateAtZero : Obligations.TicksSaturateAtZero := by
  intro n s hrun
  rw [ticks_running n hrun]
  exact ⟨iterate_tickDown_toNat n s.delay, iterate_tickDown_toNat n s.sound, rfl⟩

/-! ### The host's events (R960, 44_display.md R850) -/

/-- Settles O44: each of the two events is one write, of the key vector with key k set to b and of dirty. -/
theorem keySetAndPresentChangeOnlyTheirOwn : Obligations.KeySetAndPresentChangeOnlyTheirOwn :=
  ⟨fun s k b _ hsched =>
    ⟨_, step_of_schedule_cons hsched, fun j => getLsbD_setKey s.keys k j b, rfl, sameBytes_of_eq rfl rfl⟩,
    fun _ _ hsched => ⟨rfl, step_of_schedule_cons hsched⟩⟩

end Sys2Proof.Machine

/-! # Every step answers a next state (60_exceptions.md)

The host's four events are total functions on states; a CpuStep answers by `cpuStep_move`. -/

namespace Sys2Proof.Machine

/-- No event ends in the model's own fault or refusal: a fault of the spec is an entry (R1010), and an event that is
not enabled changes nothing (log 4, log 5). -/
theorem runEvent_answers_next (e : Event) (s : State) : ∃ t, runEvent e s = .next t := by
  cases e with
  | cpuStep =>
    obtain ⟨t, hstep, _⟩ := cpuStep_move s
    exact ⟨t, hstep⟩
  | timerTick => exact ⟨s.timerTick, rfl⟩
  | keySet k b => exact ⟨s.keySet k b, rfl⟩
  | present => exact ⟨s.present.2, rfl⟩
  | reset rom => exact ⟨s.resetWith rom, rfl⟩

/-- Settles O11: a step is the event that comes next, run on the state it acts on, and every event answers. -/
theorem everyStepAnswersANextState : Obligations.EveryStepAnswersANextState := fun s =>
  runEvent_answers_next (nextEvent s).1 (nextEvent s).2

end Sys2Proof.Machine

/-! # The size check of Reset (70_reset_and_hazards.md R1101)

`State.resetWith_of_long` and `State.resetWith_of_fits` say what Reset answers on each side of the bound, and
`step_resetWith_nil` what a core does that was reset with no program. -/

namespace Sys2Proof.Machine

theorem State.resetWith_of_long (s : State) {rom : List Byte} (h : 3584 < rom.length) :
    s.resetWith rom = { s.clear with run := .halted, loadStatus := 5 } := by
  rcases State.resetWith_cases s rom with ⟨hfits, _⟩ | ⟨_, e⟩
  · omega
  · exact e

theorem State.resetWith_of_fits (s : State) {rom : List Byte} (h : rom.length ≤ 3584) :
    s.resetWith rom = { s.clear with mem := Memory.writeBytes s.font [] Config.progBase rom } := by
  rcases State.resetWith_cases s rom with ⟨_, e⟩ | ⟨hlong, _⟩
  · exact e
  · omega

/-- A cleared memory lists no byte: FONT below 80, and 0 from there on (20_memory.md R230). -/
theorem State.byteAt_clear (s : State) (a : Nat) : s.clear.byteAt a = unlistedByte s.font a := rfl

theorem State.byteAt_resetWith_nil (s : State) {a : Nat} (ha : 80 ≤ a) : (s.resetWith []).byteAt a = 0 := by
  rw [State.byteAt_resetWith_outside s (Nat.lt_or_ge a 0x200), unlistedByte_of_ge _ ha]

/-- Fault entry records the pc of the faulting step (60_exceptions.md R1010). -/
theorem Faulted.faultPc_eq {s t : State} {cause : BitVec 3} {word addr : Word} (h : Faulted s t cause word addr) :
    t.faultPc = s.pc := by
  obtain ⟨hframe, _⟩ := h
  rw [hframe]

/-- With no program the bytes at 0x200 and 0x201 are 0, and the word 0 is illegal (30_encoding.md R311). -/
theorem step_resetWith_nil (s : State) (hsched : s.schedule = []) :
    ∃ u, step (s.resetWith []) = .next u ∧ Faulted (s.resetWith []) u 1 0 0 := by
  have hpc : (s.resetWith []).pc.toNat = 0x200 := rfl
  have hword : (0 : Word).toNat = 256 * ((s.resetWith []).byteAt (s.resetWith []).pc.toNat).toNat +
      ((s.resetWith []).byteAt ((s.resetWith []).pc.toNat + 1)).toNat := by
    rw [hpc, State.byteAt_resetWith_nil s (by decide), State.byteAt_resetWith_nil s (by decide)]
    rfl
  exact illegalWordFaults _ _ 0 .family0 (.inl ⟨hsched, rfl⟩) ⟨rfl, rfl⟩ (by omega) hword (by decide)

/-- Settles O48: beyond the bound Reset answers the cleared state, Halted; within it the cleared state with the program
loaded, and after an empty one the core fetches the word 0. -/
theorem resetChecksTheProgramSize : Obligations.ResetChecksTheProgramSize := by
  refine ⟨fun s rom rest hsched hlong => ?long, fun s rom rest hsched hfits => ?fits, fun s hsched => ?empty⟩
  case long =>
    refine ⟨_, step_of_schedule_cons hsched, ?_⟩
    rw [State.resetWith_of_long _ hlong]
    exact ⟨resetValues_clear { s with schedule := rest }, rfl, rfl, rfl, rfl, rfl,
      State.byteAt_clear { s with schedule := rest }⟩
  case fits =>
    refine ⟨_, step_of_schedule_cons hsched, ?_⟩
    rw [State.resetWith_of_fits _ hfits]
    exact ⟨rfl, rfl⟩
  case empty =>
    obtain ⟨u, hstep, hfault⟩ := step_resetWith_nil { s with schedule := [] } rfl
    exact ⟨_, u, step_of_schedule_cons hsched, hstep, hfault, hfault.faultPc_eq⟩

end Sys2Proof.Machine
